-- ==== Sys2Proof/Word.lean ====
section
/-! DEFINITION. The two widths of the block (00_scope.md R14): a buffer byte and a register identifier
are 8 bits, DeviceState and the event and command words are 16 bits. Every value is unsigned (R16). -/

namespace Sys2Proof

/-- A byte: a register identifier or the content of one buffer index (00_scope.md R14). -/
abbrev Byte := BitVec 8

/-- A 16-bit word: DeviceState, an event word or a command word (00_scope.md R14, 30_encoding.md R74). -/
abbrev Word := BitVec 16

end Sys2Proof
end

