-- ==== Sys2Proof/Config.lean ====
section
/-! DEFINITION. The implementation parameters of 00_scope.md section 4, each under its own name. The values
are the ones the spec states; `ownAddr` is the one parameter the spec leaves OPEN and is opaque. -/

namespace Sys2Proof.Config

/-- `CAP`, the capacity of each Transaction Buffer in bytes (00_scope.md R8). -/
abbrev cap : Nat := 5

/-- `RESP_LEN`, the length of every response in bytes (00_scope.md R9). -/
abbrev respLen : Nat := 2

/-- `REG_GET`, "GET current value" (00_scope.md R10). -/
abbrev regGet : Byte := 0x08#8

/-- `REG_SET`, "SET current value" (00_scope.md R10). -/
abbrev regSet : Byte := 0x09#8

/-- `REG_NONE`, the sentinel meaning "no explicit selection" (00_scope.md R10). -/
abbrev regNone : Byte := 0x00#8

/-- `INIT_VALUE`, DeviceState after initialization (00_scope.md R11). -/
abbrev initValue : Word := 0x0DD6#16

/-- `UNKNOWN_RESP`, the response to a read of an unrecognized register (00_scope.md R12). -/
abbrev unknownResp : Word := 0xFFFF#16

/-- `SET_SELECTS`, whether a write with a payload also selects its register (00_scope.md R13): true in this
spec (decision D9; log entry 13). The operations that depend on it take it as an argument. -/
abbrev setSelects : Bool := true

/-- What a buffer byte that nothing has written since the last clear reads as (10_state.md R22, R23; the value
is the spec's decision D5). -/
abbrev clearedByte : Byte := 0x00#8

/-- `P_OWN_ADDR`, the bus address the Bus Port matches: OPEN, of unspecified width and value, never read by the
core (00_scope.md R15, decision D25; log entry 14). -/
opaque ownAddr : Nat

end Sys2Proof.Config
end

