-- ==== Sys2Proof/Syntax.lean ====
section
/-! DEFINITION. What the core consumes and what it emits, as syntax: one constructor of `Instr` per row of
spec/opcode_table.json, the Bus Port commands, and the encoded form in which an instruction is presented. -/

namespace Sys2Proof

/-- A Bus Port command (30_encoding.md R72), the output of a step. `none` is "no Bus Port action". -/
inductive Command where
  | none
  /-- `beginReceive(buffer=inbound, offset=off, count=1, isFinal=false)`. -/
  | beginReceive (off : Byte)
  /-- `beginTransmit(buffer=outbound, count=2, isFinal=true)`. -/
  | beginTransmit
  /-- `rearmListen()`. -/
  | rearmListen
deriving DecidableEq, Repr

/-- The declared direction of an address match or a completed transfer (00_scope.md R17, 30_encoding.md R67). -/
inductive Direction where
  /-- The controller writes, the core receives: `dir = 0`. -/
  | controllerWrites
  /-- The controller reads, the core transmits: `dir = 1`. -/
  | controllerReads
deriving DecidableEq, Repr

/-- The 18 rows of spec/opcode_table.json: eight events (40_state_machine.md), six register-select rows
(41_register_dispatcher.md) and four commands (30_encoding.md R72). -/
inductive Instr where
  /-- `INIT`, R101. -/
  | init
  /-- `ADDR_R`, `AddressMatched(ControllerReads)`, R102. -/
  | addrR
  /-- `ADDR_W`, `AddressMatched(ControllerWrites)`, R103. -/
  | addrW
  /-- `RX b`, `ByteReceived` carrying `b`, R104. -/
  | rx (b : Byte)
  /-- `TXC`, `TransferComplete(transmit)`, R105. -/
  | txc
  /-- `RXC`, `TransferComplete(receive)`, R106. -/
  | rxc
  /-- `STOP`, `ListenComplete`, R107. -/
  | stop
  /-- `ERR`, `Error`, R108. -/
  | err
  /-- `READ_GET`: register 0x08 read, R142. -/
  | readGet
  /-- `READ_UNKNOWN`: any register but 0x08 read, R143. -/
  | readUnknown (r : Byte)
  /-- `SELECT`: a write of the one byte `r`, R147. -/
  | select (r : Byte)
  /-- `WRITE_SET`: a write of the bytes `0x09, hi` and then `rest`, R148. -/
  | writeSet (hi : Byte) (rest : List Byte)
  /-- `WRITE_UNKNOWN`: a write of the bytes `r, hi` and then `rest`, `r` not 0x09, R149. -/
  | writeUnknown (r hi : Byte) (rest : List Byte)
  /-- `SELECT_NONE`: a write of no byte, R146. -/
  | selectNone
  /-- `NONE`: no Bus Port action, R72. -/
  | noCommand
  /-- `BEGIN_RECEIVE` at offset `off`, R72. -/
  | beginReceive (off : Byte)
  /-- `BEGIN_TRANSMIT`, R72. -/
  | beginTransmit
  /-- `REARM_LISTEN`, R72. -/
  | rearmListen
deriving DecidableEq, Repr

/-- The encoded form in which an instruction is presented to the core. The Bus Port delivers only `event`
(60_exceptions.md R205); the other three present a row of the Register Dispatcher or a command by itself
(log entries 8 and 9). -/
inductive Input where
  /-- An event word of 30_encoding.md R65. -/
  | event (w : Word)
  /-- The register a read transaction reads (30_encoding.md R64). -/
  | read (id : Byte)
  /-- The bytes of a write transaction, first on the bus first (30_encoding.md R63). -/
  | write (bytes : List Byte)
  /-- A command word of 30_encoding.md R71. -/
  | command (w : Word)
deriving DecidableEq, Repr

end Sys2Proof
end

