-- ==== Sys2Proof/WellFormed.lean ====
section
/-! DEFINITION. The checks an instruction's operands meet beyond their types: the low-priority rows of the
opcode table match only where the exact row does not, a write transaction holds at most CAP accepted bytes,
and a receive command's offset lies in the buffer. -/

namespace Sys2Proof

/-- A write transaction of `n` bytes fits the inbound buffer: `ApplyWrite(n : 0..CAP)` (41_register_dispatcher.md R144). -/
def fitsBuffer (n : Nat) : Bool := decide (n ≤ Config.cap)

/-- The operands of an instruction are ones its row of the opcode table admits. -/
def Instr.wf : Instr → Bool
  | .init | .addrR | .addrW | .rx _ | .txc | .rxc | .stop | .err => true
  | .readGet | .select _ | .selectNone => true
  | .readUnknown r => r != Config.regGet
  | .writeSet _ rest => fitsBuffer (rest.length + 2)
  | .writeUnknown r _ rest => r != Config.regSet && fitsBuffer (rest.length + 2)
  | .noCommand | .beginTransmit | .rearmListen => true
  | .beginReceive off => decide (off.toNat < Config.cap)

/-- The row is one of the eight events the Bus Port or the application delivers (40_state_machine.md). -/
def Instr.isEvent : Instr → Bool
  | .init | .addrR | .addrW | .rx _ | .txc | .rxc | .stop | .err => true
  | .readGet | .readUnknown _ | .select _ | .writeSet _ _ | .writeUnknown _ _ _ | .selectNone => false
  | .noCommand | .beginReceive _ | .beginTransmit | .rearmListen => false

end Sys2Proof
end

