-- ==== Sys2Proof/Decode.lean ====
section
/-! DEFINITION. The decoder of the three encodings of 30_encoding.md (event word, transaction bytes, command
word), total and rejecting by name, and after it the encoder, written from the same tables. -/

namespace Sys2Proof

/-- Why something presented to the core spells no instruction. -/
inductive DecodeError where
  /-- The event word's `rsv` field is nonzero (30_encoding.md R69). -/
  | reservedBits
  /-- The event word's `kind` is 0x0 or 0x6 to 0xE (R69). -/
  | reservedKind
  /-- The event word's `dir` bit is set for a kind that has no direction (R69). -/
  | strayDirection
  /-- The event word's `data` field is nonzero for a kind that carries no byte (R69). -/
  | strayData
  /-- The word is none of the command words of 30_encoding.md R72. -/
  | notACommandWord
  /-- A receive command at an offset of CAP or more, which the core never emits (R73). -/
  | offsetBeyondCapacity
  /-- A write of more than CAP bytes, which `ApplyWrite(n : 0..CAP)` is not given for (41_register_dispatcher.md R144;
  log entry 15). -/
  | writeTooLong
deriving DecidableEq, Repr

/-! ### Event words (30_encoding.md R65 to R70) -/

/-- `kind`, bits 15:12 (R65). -/
def evKind (w : Word) : BitVec 4 := w.extractLsb' 12 4

/-- `rsv`, bits 11:9 (R65). -/
def evRsv (w : Word) : BitVec 3 := w.extractLsb' 9 3

/-- `dir`, bit 8 (R65). -/
def evDir (w : Word) : BitVec 1 := w.extractLsb' 8 1

/-- `data`, bits 7:0 (R65). -/
def evData (w : Word) : Byte := w.extractLsb' 0 8

/-- The direction a `dir` bit declares: 1 is ControllerReads (R67). -/
def Direction.ofBit (d : BitVec 1) : Direction := if d = 1#1 then .controllerReads else .controllerWrites

/-- The `dir` bit of a direction (R67). -/
def Direction.toBit : Direction → BitVec 1
  | .controllerWrites => 0#1
  | .controllerReads => 1#1

/-- A kind that uses neither `dir` nor `data`: both must be zero (R65). -/
def decodePlain (w : Word) (i : Instr) : Except DecodeError Instr :=
  if evDir w ≠ 0#1 then .error .strayDirection
  else if evData w ≠ 0#8 then .error .strayData
  else .ok i

/-- A kind with a direction: `data` must be zero, and `dir` picks one of two events (R65, R67). -/
def decodeDirected (w : Word) (reads writes : Instr) : Except DecodeError Instr :=
  if evData w ≠ 0#8 then .error .strayData
  else match Direction.ofBit (evDir w) with
    | .controllerReads => .ok reads
    | .controllerWrites => .ok writes

/-- The kind that carries a byte: `dir` must be zero (R65, R68). -/
def decodeReceived (w : Word) : Except DecodeError Instr :=
  if evDir w ≠ 0#1 then .error .strayDirection else .ok (.rx (evData w))

/-- The decoder of event words, in the order of R70. -/
def decodeEvent (w : Word) : Except DecodeError Instr :=
  if evRsv w ≠ 0#3 then .error .reservedBits
  else if evKind w = 0x1#4 then decodeDirected w .addrR .addrW
  else if evKind w = 0x2#4 then decodeReceived w
  else if evKind w = 0x3#4 then decodeDirected w .txc .rxc
  else if evKind w = 0x4#4 then decodePlain w .stop
  else if evKind w = 0x5#4 then decodePlain w .err
  else if evKind w = 0xF#4 then decodePlain w .init
  else .error .reservedKind

/-! ### Command words (30_encoding.md R71 to R73) -/

/-- The command word of its five fields (R71). -/
def commandWord (op : BitVec 2) (isFinal buf : BitVec 1) (count : BitVec 4) (offset : Byte) : Word :=
  op ++ isFinal ++ buf ++ count ++ offset

/-- The word of a command: `NONE`, `BEGIN_RECEIVE` (buffer IN, count 1, not final), `BEGIN_TRANSMIT` (buffer
OUT, count 2, final), `REARM_LISTEN` (R71, R72). -/
def Command.word : Command → Word
  | .none => commandWord 0b00#2 0#1 0#1 0#4 0#8
  | .beginReceive off => commandWord 0b01#2 0#1 0#1 1#4 off
  | .beginTransmit => commandWord 0b10#2 1#1 1#1 2#4 0#8
  | .rearmListen => commandWord 0b11#2 0#1 0#1 0#4 0#8

/-- `op`, bits 15:14 (R71). -/
def cmdOp (w : Word) : BitVec 2 := w.extractLsb' 14 2

/-- `isFinal`, bit 13 (R71). -/
def cmdIsFinal (w : Word) : BitVec 1 := w.extractLsb' 13 1

/-- `buf`, bit 12: 0 is IN, 1 is OUT (R71). -/
def cmdBuf (w : Word) : BitVec 1 := w.extractLsb' 12 1

/-- `count`, bits 11:8 (R71). -/
def cmdCount (w : Word) : BitVec 4 := w.extractLsb' 8 4

/-- `offset`, bits 7:0 (R71). -/
def cmdOffset (w : Word) : Byte := w.extractLsb' 0 8

/-- The decoder of command words: the four forms of R72, and only these. -/
def decodeCommand (w : Word) : Except DecodeError Instr :=
  if w = Command.none.word then .ok .noCommand
  else if w = Command.beginTransmit.word then .ok .beginTransmit
  else if w = Command.rearmListen.word then .ok .rearmListen
  else if w = (Command.beginReceive (cmdOffset w)).word then
    if (cmdOffset w).toNat < Config.cap then .ok (.beginReceive (cmdOffset w)) else .error .offsetBeyondCapacity
  else .error .notACommandWord

/-! ### Transactions at the Register Dispatcher (30_encoding.md R61 to R64) -/

/-- The dispatcher's row for a read of register `id`: `READ_UNKNOWN` matches only where `READ_GET` does not
(41_register_dispatcher.md R142, R143). -/
def decodeRead (id : Byte) : Instr := if id = Config.regGet then .readGet else .readUnknown id

/-- The dispatcher's row for a write of these bytes: decided by their number, and for two or more by the first
one; `WRITE_UNKNOWN` matches only where `WRITE_SET` does not (41_register_dispatcher.md R144, R146 to R149). -/
def decodeWrite : List Byte → Except DecodeError Instr
  | [] => .ok .selectNone
  | [r] => .ok (.select r)
  | r :: hi :: rest =>
    if fitsBuffer (rest.length + 2) then
      if r = Config.regSet then .ok (.writeSet hi rest) else .ok (.writeUnknown r hi rest)
    else .error .writeTooLong

/-! ### The decoder -/

/-- The instruction presented, or why there is none. -/
def decode : Input → Except DecodeError Instr
  | .event w => decodeEvent w
  | .read id => .ok (decodeRead id)
  | .write bytes => decodeWrite bytes
  | .command w => decodeCommand w

/-! ### The encoder -/

/-- The event word of its fields, `rsv` zero (30_encoding.md R65). -/
def eventWord (kind : BitVec 4) (dir : BitVec 1) (data : Byte) : Word := kind ++ 0#3 ++ dir ++ data

/-- The encoding of an instruction: its event word (30_encoding.md R66 to R68), its transaction (R63, R64) or its
command word (R72). -/
def encode : Instr → Input
  | .init => .event (eventWord 0xF#4 0#1 0#8)
  | .addrR => .event (eventWord 0x1#4 Direction.controllerReads.toBit 0#8)
  | .addrW => .event (eventWord 0x1#4 Direction.controllerWrites.toBit 0#8)
  | .rx b => .event (eventWord 0x2#4 0#1 b)
  | .txc => .event (eventWord 0x3#4 Direction.controllerReads.toBit 0#8)
  | .rxc => .event (eventWord 0x3#4 Direction.controllerWrites.toBit 0#8)
  | .stop => .event (eventWord 0x4#4 0#1 0#8)
  | .err => .event (eventWord 0x5#4 0#1 0#8)
  | .readGet => .read Config.regGet
  | .readUnknown r => .read r
  | .select r => .write [r]
  | .writeSet hi rest => .write (Config.regSet :: hi :: rest)
  | .writeUnknown r hi rest => .write (r :: hi :: rest)
  | .selectNone => .write []
  | .noCommand => .command Command.none.word
  | .beginReceive off => .command (Command.beginReceive off).word
  | .beginTransmit => .command Command.beginTransmit.word
  | .rearmListen => .command Command.rearmListen.word

/-! ### The opcode table's words -/

/-- What an 8-bit row of the table, a register-select byte, presents. The table gives three rows the pattern
of any byte; the exact rows come first, as their notes say, then SELECT, whose 8 bits are its whole
transaction (log entry 10). `WRITE_SET`'s payload bytes, which the table gives no bits, are zero. -/
def inputOfSelectByte (r : Byte) : Input :=
  if r = Config.regGet then .read r
  else if r = Config.regSet then .write [r, 0x00#8, 0x00#8]
  else .write [r]

/-- What a 16-bit row of the table presents: an event word, or else a command word. No word is both. -/
def inputOfWord (w : Word) : Input :=
  match decodeEvent w with
  | .ok _ => .event w
  | .error _ =>
    match decodeCommand w with
    | .ok _ => .command w
    | .error _ => .event w

/-- What a row of the table with `nbits` bits and the value `w` presents. `SELECT_NONE` has no bits at all. -/
def inputOfTableWord (nbits w : Nat) : Option Input :=
  if nbits = 0 then (if w = 0 then some (.write []) else none)
  else if nbits = 8 then (if w < 256 then some (inputOfSelectByte (BitVec.ofNat 8 w)) else none)
  else if nbits = 16 then (if w < 65536 then some (inputOfWord (BitVec.ofNat 16 w)) else none)
  else none

/-- The instruction the decoder reads from a row's word. -/
def decodeTableWord (nbits w : Nat) : Option Instr :=
  match inputOfTableWord nbits w with
  | none => none
  | some x =>
    match decode x with
    | .ok i => some i
    | .error _ => none

end Sys2Proof
end

