-- ==== Sys2Proof/Machine/State.lean ====
section
/-! DEFINITION. The state of the core (10_state.md R20), the outputs of its last step (R36), the part of its
environment a step reads or writes (R34, R35), the reasons a step can stop, and the state after reset (R37). -/

namespace Sys2Proof.Machine

/-- SlaveMode, "which half of a transaction is in flight" (10_state.md R21). -/
inductive Mode where
  /-- "idle, address not yet matched". -/
  | listening
  /-- "controller is writing bytes to us". -/
  | receiving
  /-- "controller is reading bytes from us". -/
  | transmitting
deriving DecidableEq, Repr

/-- The error label of a step (60_exceptions.md R200): an observation, not a fault. -/
inductive ErrLabel where
  /-- The step raised nothing. -/
  | none
  /-- "write transaction exceeds buffer capacity" (R201). -/
  | bufferOverflow
  /-- "non-fatal; yields sentinel response or no-op write" (R202). -/
  | unknownRegister
  /-- "reported by the Bus Port via `Error`" (R203). -/
  | busFault
deriving DecidableEq, Repr

/-- The bytes of one buffer by index: the indices that do not hold the cleared byte, strictly rising. An
unlisted index reads as the cleared byte (`Config.clearedByte`; log entry 11). -/
abbrev Memory := List Host.Cell

/-- A Transaction Buffer: `{count: 0..CAP, data: byte[CAP]}` (42_transaction_buffers.md R160). -/
structure Buffer where
  /-- The number of valid bytes. -/
  count : Nat
  /-- The contents. -/
  data : Memory
deriving DecidableEq, Repr

/-- The machine: the five fields of 10_state.md R20, then the outputs of the last step, then the environment. -/
structure State where
  /-- SlaveMode (R21). -/
  mode : Mode
  /-- The inbound Transaction Buffer (R22). -/
  IN : Buffer
  /-- The outbound Transaction Buffer (R23). -/
  OUT : Buffer
  /-- RequestedRegister (R24). -/
  reqReg : Byte
  /-- DeviceState (R25). -/
  dev : Word
  /-- Output of the last step: its Bus Port command (R36; log entry 5). -/
  cmd : Command
  /-- Output of the last step: its error label (R36; log entry 5). -/
  err : ErrLabel
  /-- Output of the last step: the bytes `BuildResponse` returned in it, empty when it was not called
  (41_register_dispatcher.md R141; log entry 6). -/
  resp : List Byte
  /-- Environment: the last operation the core commanded; the Bus Port has at most this one outstanding, and
  the core never reads it (R35; log entry 7). -/
  lastOp : Command
  /-- Environment: what is still to be presented to the core, the next one first (R34 (c); log entry 3). -/
  inputs : List Input
  /-- Whether the core has been initialised: before the first `INIT` no field has a defined value and only
  `INIT` runs (70_reset_and_hazards.md R233; log entries 1 and 2). -/
  initialised : Bool
deriving DecidableEq, Repr

/-- No constructor: "The core has no fault outcome" (93_implementation_defined.md section 1). A step that meets
an error completes and labels it (60_exceptions.md R200). -/
inductive Fault where
deriving DecidableEq, Repr

/-- Why a step is refused. -/
inductive Refusal where
  /-- Raised by `exec`'s arm of an instruction that has no meaning yet. Safe: nothing is claimed of it. -/
  | notModelled (mnemonic : String)
  /-- Raised by every instruction but `INIT` on a core never initialised, which the spec refuses
  (70_reset_and_hazards.md R233). Safe: nothing is claimed of a run that starts so. -/
  | notInitialised
  /-- Raised by `step` when what is presented spells no instruction, which the spec refuses for event words
  (30_encoding.md R69). Safe: nothing is claimed of a run that contains one. -/
  | undecodable (reason : DecodeError)
deriving DecidableEq, Repr

/-- An empty, cleared buffer (10_state.md R22, R23). -/
def Buffer.empty : Buffer := { count := 0, data := [] }

/-- The state after initialization, the only reset the core has (10_state.md R37, 70_reset_and_hazards.md R230,
R231): `INIT` emits `REARM_LISTEN` and raises nothing, so those are the outputs. Nothing is presented yet. -/
def State.reset : State where
  mode := .listening
  IN := Buffer.empty
  OUT := Buffer.empty
  reqReg := Config.regNone
  dev := Config.initValue
  cmd := .rearmListen
  err := .none
  resp := []
  lastOp := .rearmListen
  inputs := []
  initialised := true

end Sys2Proof.Machine
end

