-- ==== Sys2Proof/Machine/Ops.lean ====
section
/-! DEFINITION. The named operations every meaning is written over: the memory primitives of 00_scope.md R16, the
four buffer operations of 42_transaction_buffers.md, `emit` and `raise`, the one frame all instructions run
in, and the bus fault, the nearest thing the core has to taking an exception (60_exceptions.md R208). -/

namespace Sys2Proof.Machine

/-! ### Memory in canonical form -/

/-- `MemRead(B, i, 1)` on the contents of a buffer (00_scope.md R16). -/
def Memory.read : Memory → Nat → Byte
  | [], _ => Config.clearedByte
  | (a, b) :: m, i => if i = a then b else Memory.read m i

/-- `MemWrite(B, i, 1, v)` on the contents of a buffer (00_scope.md R16), kept canonical: writing the cleared byte
removes the entry. -/
def Memory.write : Memory → Nat → Byte → Memory
  | [], i, v => if v = Config.clearedByte then [] else [(i, v)]
  | (a, b) :: m, i, v =>
    if i < a then (if v = Config.clearedByte then (a, b) :: m else (i, v) :: (a, b) :: m)
    else if i = a then (if v = Config.clearedByte then m else (i, v) :: m)
    else (a, b) :: Memory.write m i v

/-- The canonical form from index `lo` on: indices strictly rising, no entry the cleared byte. -/
def Memory.wfFrom (lo : Nat) : Memory → Bool
  | [] => true
  | (a, b) :: m => decide (lo ≤ a) && b != Config.clearedByte && Memory.wfFrom (a + 1) m

/-- The canonical form. -/
def Memory.wf (m : Memory) : Bool := Memory.wfFrom 0 m

/-! ### Buffer operations (42_transaction_buffers.md) -/

/-- `B.data[i]`. -/
def Buffer.read (B : Buffer) (i : Nat) : Byte := B.data.read i

/-- `Append(B, b)` (R161): the buffer with `b` at the end of its valid prefix, or `none` where it is full
(log entry 12). -/
def Buffer.append (B : Buffer) (b : Byte) : Option Buffer :=
  if B.count < Config.cap then some { count := B.count + 1, data := B.data.write B.count b } else none

/-- `ReadAll(B)` (R162): the valid prefix. -/
def Buffer.readAll (B : Buffer) : List Byte := (List.range B.count).map B.read

/-- `ResetBuf(B)` (R163): count zero, contents cleared. -/
def Buffer.resetBuf (_B : Buffer) : Buffer := Buffer.empty

/-- The appends of `Load`, one byte after another; a rejected one leaves the buffer as it is (R164, R161). -/
def Buffer.appendAll (B : Buffer) : List Byte → Buffer
  | [] => B
  | b :: bs =>
    match B.append b with
    | some B' => Buffer.appendAll B' bs
    | none => B

/-- `Load(B, s)` (R164): reset, then append every byte of `s`. -/
def Buffer.load (B : Buffer) (s : List Byte) : Buffer := B.resetBuf.appendAll s

/-! ### Step outputs -/

/-- `emit c` (00_scope.md R16): sets the step's command output. A command other than `NONE` is also the last
operation the Bus Port was told to do (10_state.md R35; log entry 7). -/
def State.emit (c : Command) (s : State) : State :=
  match c with
  | .none => { s with cmd := .none }
  | c => { s with cmd := c, lastOp := c }

/-- `raise K` (00_scope.md R16): sets the step's error label and nothing else. -/
def State.raise (k : ErrLabel) (s : State) : State := { s with err := k }

/-- The outputs at the start of a step: no command, no label, no response (00_scope.md R16: "A step that runs no
`emit` has command output `NONE`"). -/
def State.beginStep (s : State) : State := { s with cmd := .none, err := .none, resp := [] }

/-- The frame of every instruction but `INIT`: it runs to completion on an initialised core (40_state_machine.md
R100) and is refused before the first `INIT` (70_reset_and_hazards.md R233). -/
def State.handle (s : State) (handler : State → State) : Host.Outcome State Fault Refusal :=
  if s.initialised then .next (handler s.beginStep) else .refused .notInitialised

/-! ### The exception -/

/-- The bus fault, "the nearest thing to a trap" (60_exceptions.md R208, 40_state_machine.md R108): nothing is saved
and no vector is taken; the transaction is abandoned, both buffers are emptied, listening is re-armed.
There is no return from it (60_exceptions.md R209). -/
def State.takeBusFault (s : State) : State :=
  ({ s with mode := .listening, IN := s.IN.resetBuf, OUT := s.OUT.resetBuf }.emit .rearmListen).raise .busFault

/-! ### Presenting the next input -/

/-- What `step` does with nothing presented: the core stays as it is until the next event; it has no timeout
(40_state_machine.md R111; log entry 4). -/
def State.park (s : State) : Host.Outcome State Fault Refusal := .next s

/-- What `step` does with an input that spells no instruction (30_encoding.md R69). -/
def State.refuse (_s : State) (e : DecodeError) : Host.Outcome State Fault Refusal := .refused (.undecodable e)

/-- The state with an input taken, the rest still to come. -/
def State.take (s : State) (rest : List Input) : State := { s with inputs := rest }

/-- The state with `x` presented next, before anything already waiting. -/
def State.present (s : State) (x : Input) : State := { s with inputs := x :: s.inputs }

end Sys2Proof.Machine
end

