-- ==== Sys2Proof/Machine/Operands.lean ====
section
/-! DEFINITION. The operand forms: the two bytes of a 16-bit value, most significant first (20_memory.md R41, R42),
the payload of a write (41_register_dispatcher.md R145), the response of a read (R141), the offset of a
receive command (30_encoding.md R71) and the numeric codes of the mode (10_state.md R21). -/

namespace Sys2Proof.Machine

/-- `v[15:8]`, the byte that travels first (20_memory.md R42). -/
def msb (v : Word) : Byte := v.extractLsb' 8 8

/-- `v[7:0]`, the byte that travels second (20_memory.md R42). -/
def lsb (v : Word) : Byte := v.extractLsb' 0 8

/-- The two bytes of a 16-bit value as they travel (20_memory.md R41). -/
def wordBytes (v : Word) : List Byte := [msb v, lsb v]

/-- `hi ++ lo`, with the low byte 0x00 where the controller sent none (41_register_dispatcher.md R145; the value is
the spec's decision D7). -/
def payloadOf (hi : Byte) (lo : Option Byte) : Word := hi ++ lo.getD 0x00#8

/-- `Payload(n)` (41_register_dispatcher.md R145), from inbound bytes 1 and 2. -/
def payload (n : Nat) (B : Buffer) : Word :=
  payloadOf (B.read 1) (if 3 ≤ n then some (B.read 2) else none)

/-- `BEGIN_RECEIVE` at a fill count (30_encoding.md R72): the offset field is 8 bits wide. -/
def receiveAt (count : Nat) : Command := .beginReceive (BitVec.ofNat 8 count)

/-- The number a state dump shows for the mode (10_state.md R21, decision D22). -/
def Mode.code : Mode → Nat
  | .listening => 0
  | .receiving => 1
  | .transmitting => 2

end Sys2Proof.Machine
end

