-- ==== Sys2Proof/Machine/Commands.lean ====
section
/-! DEFINITION. The four command rows of the opcode table (30_encoding.md R72). A command is what a step emits;
executed by itself it is `emit c` (00_scope.md R16): the step's command output and the Bus Port's last commanded
operation become that command (log entry 9). -/

namespace Sys2Proof.Machine

/-- `NONE`: no Bus Port action. -/
def execNoCommand (s : State) : Host.Outcome State Fault Refusal := s.handle (State.emit .none)

/-- `BEGIN_RECEIVE`: one byte into IN at `off`, not final. -/
def execBeginReceive (off : Byte) (s : State) : Host.Outcome State Fault Refusal :=
  s.handle (State.emit (.beginReceive off))

/-- `BEGIN_TRANSMIT`: two bytes of OUT, final. -/
def execBeginTransmit (s : State) : Host.Outcome State Fault Refusal := s.handle (State.emit .beginTransmit)

/-- `REARM_LISTEN`: listen for the next address match. -/
def execRearmListen (s : State) : Host.Outcome State Fault Refusal := s.handle (State.emit .rearmListen)

end Sys2Proof.Machine
end

