-- ==== Sys2Proof/Machine/Flags.lean ====
section
/-! DEFINITION. The core has no status flag and no condition code (10_state.md R30), so no flag is computed. What
stands in their place is the error label a step raises; here is its code (60_exceptions.md R200). -/

namespace Sys2Proof.Machine

/-- The code of an error label (60_exceptions.md R200). -/
def ErrLabel.code : ErrLabel → Nat
  | .none => 0
  | .bufferOverflow => 1
  | .unknownRegister => 2
  | .busFault => 3

end Sys2Proof.Machine
end

