-- ==== Sys2Proof/Machine/Dispatcher.lean ====
section
/-! DEFINITION. The Register Dispatcher (41_register_dispatcher.md): the two operations the events call,
`BuildResponse` and `ApplyWrite`, each case of them under its own name, and the meanings of the six
register-select rows of the opcode table, which are those cases executed by themselves (log entry 8). -/

namespace Sys2Proof.Machine

/-! ### Build response -/

/-- Register 0x08 read: `[dev[15:8], dev[7:0]]`, no label (R142). -/
def State.readGet (s : State) : State := { s with resp := wordBytes s.dev }

/-- Any other register read: `[0xFF, 0xFF]` and `UnknownRegister` (R143). -/
def State.readUnknown (s : State) : State :=
  { s with resp := wordBytes Config.unknownResp }.raise .unknownRegister

/-- `BuildResponse(id)` (R141); its result is the state's `resp`. -/
def State.buildResponse (id : Byte) (s : State) : State :=
  if id = Config.regGet then s.readGet else s.readUnknown

/-! ### Apply write -/

/-- A write of no byte: `reqReg <- REG_NONE` (R146). -/
def State.selectNone (s : State) : State := { s with reqReg := Config.regNone }

/-- A write of one byte: `reqReg <- r` (R147). -/
def State.selectRegister (r : Byte) (s : State) : State := { s with reqReg := r }

/-- `if SET_SELECTS : reqReg <- id` (R144; 00_scope.md R13). -/
def State.selectAfterWrite (selects : Bool) (id : Byte) (s : State) : State :=
  if selects then s.selectRegister id else s

/-- A write with payload `v` to register 0x09: `dev <- v`, then the selection (R148). -/
def State.writeSet (selects : Bool) (v : Word) (s : State) : State :=
  { s with dev := v }.selectAfterWrite selects Config.regSet

/-- A write with payload to any other register: `UnknownRegister`, `dev` kept, then the selection (R149). -/
def State.writeUnknown (selects : Bool) (id : Byte) (s : State) : State :=
  (s.raise .unknownRegister).selectAfterWrite selects id

/-- `ApplyWrite(n)` (R144), for either value of `SET_SELECTS`. -/
def State.applyWriteWith (selects : Bool) (n : Nat) (s : State) : State :=
  if n = 0 then s.selectNone
  else if n = 1 then s.selectRegister (s.IN.read 0)
  else if s.IN.read 0 = Config.regSet then s.writeSet selects (payload n s.IN)
  else s.writeUnknown selects (s.IN.read 0)

/-- `ApplyWrite(n)` with this spec's `SET_SELECTS` (R144). -/
def State.applyWrite (n : Nat) (s : State) : State := s.applyWriteWith Config.setSelects n

/-! ### The meanings of the register-select rows -/

/-- `READ_GET` (R142). -/
def execReadGet (s : State) : Host.Outcome State Fault Refusal := s.handle State.readGet

/-- `READ_UNKNOWN` (R143): the same response for every such register. -/
def execReadUnknown (_r : Byte) (s : State) : Host.Outcome State Fault Refusal := s.handle State.readUnknown

/-- `SELECT` (R147). -/
def execSelect (r : Byte) (s : State) : Host.Outcome State Fault Refusal := s.handle (State.selectRegister r)

/-- `WRITE_SET` (R148): the payload is `hi` and the first byte after it, if there is one; later bytes never
matter (R144). -/
def execWriteSet (hi : Byte) (rest : List Byte) (s : State) : Host.Outcome State Fault Refusal :=
  s.handle (State.writeSet Config.setSelects (payloadOf hi rest.head?))

/-- `WRITE_UNKNOWN` (R149): the payload has no effect. -/
def execWriteUnknown (r _hi : Byte) (_rest : List Byte) (s : State) : Host.Outcome State Fault Refusal :=
  s.handle (State.writeUnknown Config.setSelects r)

/-- `SELECT_NONE` (R146). -/
def execSelectNone (s : State) : Host.Outcome State Fault Refusal := s.handle State.selectNone

end Sys2Proof.Machine
end

