-- ==== Sys2Proof/Machine/Events.lean ====
section
/-! DEFINITION. The Slave State Machine (40_state_machine.md): the handler of each event in the order of its
pseudocode, and its meaning. Every handler is the same in every mode (R100). -/

namespace Sys2Proof.Machine

/-- `INIT` (R101): all five fields to their defaults, listening armed. -/
def State.onInit (s : State) : State :=
  { s with
    mode := .listening
    IN := s.IN.resetBuf
    OUT := s.OUT.resetBuf
    reqReg := Config.regNone
    dev := Config.initValue
    initialised := true }.emit .rearmListen

/-- The response of `BuildResponse` put into the outbound buffer: `Load(OUT, resp)` (R102). -/
def State.loadResponse (s : State) : State := { s with OUT := s.OUT.load s.resp }

/-- `ADDR_R` (R102). -/
def State.onAddrR (s : State) : State :=
  let s := { s with mode := .transmitting }
  let s := s.buildResponse s.reqReg
  let s := s.loadResponse
  let s := s.emit .beginTransmit
  { s with reqReg := Config.regNone }

/-- `ADDR_W` (R103). -/
def State.onAddrW (s : State) : State :=
  let s := { s with mode := .receiving }
  if s.IN.count < Config.cap then s.emit (receiveAt s.IN.count) else s.raise .bufferOverflow

/-- The receive re-armed after an accepted byte: only in `Receiving` and with room left (R104, decision D11). -/
def State.rearmReceive (s : State) : State :=
  if s.mode = .receiving ∧ s.IN.count < Config.cap then s.emit (receiveAt s.IN.count) else s

/-- `RX b` (R104). -/
def State.onRx (b : Byte) (s : State) : State :=
  match s.IN.append b with
  | some B => { s with IN := B }.rearmReceive
  | none => s.raise .bufferOverflow

/-- `TXC` (R105). -/
def State.onTxc (s : State) : State := { s with OUT := s.OUT.resetBuf }

/-- `RXC` (R106): no effect. -/
def State.onRxc (s : State) : State := s

/-- `STOP` (R107). -/
def State.onStop (s : State) : State :=
  let s := { s with mode := .listening }
  let s := s.applyWrite s.IN.count
  let s := { s with IN := s.IN.resetBuf }
  s.emit .rearmListen

/-! ### The meanings -/

/-- `INIT` (R101): it runs on a core never initialised too (70_reset_and_hazards.md R233). -/
def execInit (s : State) : Host.Outcome State Fault Refusal := .next s.beginStep.onInit

/-- `ADDR_R` (R102). -/
def execAddrR (s : State) : Host.Outcome State Fault Refusal := s.handle State.onAddrR

/-- `ADDR_W` (R103). -/
def execAddrW (s : State) : Host.Outcome State Fault Refusal := s.handle State.onAddrW

/-- `RX b` (R104). -/
def execRx (b : Byte) (s : State) : Host.Outcome State Fault Refusal := s.handle (State.onRx b)

/-- `TXC` (R105). -/
def execTxc (s : State) : Host.Outcome State Fault Refusal := s.handle State.onTxc

/-- `RXC` (R106). -/
def execRxc (s : State) : Host.Outcome State Fault Refusal := s.handle State.onRxc

/-- `STOP` (R107). -/
def execStop (s : State) : Host.Outcome State Fault Refusal := s.handle State.onStop

/-- `ERR` (R108): the bus fault is taken. -/
def execErr (s : State) : Host.Outcome State Fault Refusal := s.handle State.takeBusFault

end Sys2Proof.Machine
end

