-- ==== Sys2Proof/Machine/Dispatch.lean ====
section
/-! DEFINITION. The meaning of every row of the opcode table, one arm per constructor of Instr. -/

namespace Sys2Proof.Machine

def exec (i : Instr) (s : State) : Host.Outcome State Fault Refusal :=
  match i with
  -- events: 40_state_machine.md
  | .init => Sys2Proof.Machine.execInit s
  | .addrR => Sys2Proof.Machine.execAddrR s
  | .addrW => Sys2Proof.Machine.execAddrW s
  | .rx b => Sys2Proof.Machine.execRx b s
  | .txc => Sys2Proof.Machine.execTxc s
  | .rxc => Sys2Proof.Machine.execRxc s
  | .stop => Sys2Proof.Machine.execStop s
  | .err => Sys2Proof.Machine.execErr s
  -- register-select rows: 41_register_dispatcher.md
  | .readGet => Sys2Proof.Machine.execReadGet s
  | .readUnknown r => Sys2Proof.Machine.execReadUnknown r s
  | .select r => Sys2Proof.Machine.execSelect r s
  | .writeSet hi rest => Sys2Proof.Machine.execWriteSet hi rest s
  | .writeUnknown r hi rest => Sys2Proof.Machine.execWriteUnknown r hi rest s
  | .selectNone => Sys2Proof.Machine.execSelectNone s
  -- commands: 30_encoding.md
  | .noCommand => Sys2Proof.Machine.execNoCommand s
  | .beginReceive off => Sys2Proof.Machine.execBeginReceive off s
  | .beginTransmit => Sys2Proof.Machine.execBeginTransmit s
  | .rearmListen => Sys2Proof.Machine.execRearmListen s

end Sys2Proof.Machine
end

