-- ==== Sys2Proof/Machine/Step.lean ====
section
/-! DEFINITION. One step: the next input is taken, decoded and executed (00_scope.md R7). The core has no program
counter and fetches nothing (10_state.md R29); what it runs is what is presented to it. -/

namespace Sys2Proof.Machine

/-- One step of the machine. -/
def step (s : State) : Host.Outcome State Fault Refusal :=
  match s.inputs with
  | [] => s.park
  | x :: rest =>
    match decode x with
    | .ok i => exec i (s.take rest)
    | .error e => s.refuse e

/-- The state in which the opcode table's word is presented next. A value the table cannot hold presents the
reserved event word 0x0000, which is refused. -/
def State.withFetchWord (s : State) (nbits w : Nat) : State :=
  match inputOfTableWord nbits w with
  | some x => s.present x
  | none => s.present (.event 0x0000#16)

end Sys2Proof.Machine
end

