-- ==== Sys2Proof/Machine/Program.lean ====
section
/-! DEFINITION. Event programs: their assembler text (30_encoding.md R75), the pseudo-instructions (R76), their meaning
as the fold of the step (R75), and what a step lets the outside observe (10_state.md R36, R76). -/

namespace Sys2Proof.Machine

/-- The fold of the instructions' meanings over a sequence, stopping at the first refusal (30_encoding.md R75). -/
def runAll : List Instr → State → Host.Outcome State Fault Refusal
  | [], s => .next s
  | i :: is, s =>
    match exec i s with
    | .next t => runAll is t
    | .fault r => .fault r
    | .refused r => .refused r

/-- The pseudo-instructions of R76, in the controller's words. -/
inductive Pseudo where
  /-- `SELECT r`: a write of only the register select. -/
  | select (r : Byte)
  /-- `READ`: a read transaction. -/
  | read
  /-- `GET r`: select, then read. -/
  | get (r : Byte)
  /-- `SET r, v`: a write of the register select and a 16-bit payload. -/
  | set (r : Byte) (v : Word)
deriving DecidableEq, Repr

/-- The events a conforming Bus Port delivers for a pseudo-instruction (R76). -/
def Pseudo.expand : Pseudo → List Instr
  | .select r => [.addrW, .rx r, .stop]
  | .read => [.addrR, .txc, .stop]
  | .get r => [.addrW, .rx r, .stop, .addrR, .txc, .stop]
  | .set r v => [.addrW, .rx r, .rx (msb v), .rx (lsb v), .stop]

/-- A sequence of instructions queued behind whatever is already waiting. -/
def State.queue (s : State) (is : List Instr) : State := { s with inputs := is.map encode ++ s.inputs }

/-- The bytes of a read transaction's response: the valid prefix of OUT right after the `ADDR_R` step (R76, the
spec's decision D31). -/
def State.response (s : State) : List Byte := s.OUT.readAll

/-- What a step lets the outside observe: its command word and its label's code (10_state.md R36). -/
def State.observed (s : State) : Word × Nat := (s.cmd.word, s.err.code)

/-- The digit of a nibble, a capital as the programs of 95_test_vectors.md section 7 write it (R75). -/
def hexDigit (n : BitVec 4) : Char := (['0', '1', '2', '3', '4', '5', '6', '7', '8', '9', 'A', 'B', 'C', 'D', 'E', 'F'] : List Char).getD n.toNat '0'

/-- A byte as the assembler writes it (R75). -/
def hexByte (b : Byte) : List Char := ['0', 'x', hexDigit (b.extractLsb' 4 4), hexDigit (b.extractLsb' 0 4)]

/-- The line of an event program that stands for an instruction; only events have one (R75). -/
def asmText : Instr → Option (List Char)
  | .init => some ['I', 'N', 'I', 'T']
  | .addrR => some ['A', 'D', 'D', 'R', ' ', 'R']
  | .addrW => some ['A', 'D', 'D', 'R', ' ', 'W']
  | .rx b => some (['R', 'X', ' '] ++ hexByte b)
  | .txc => some ['T', 'X', 'C']
  | .rxc => some ['R', 'X', 'C']
  | .stop => some ['S', 'T', 'O', 'P']
  | .err => some ['E', 'R', 'R']
  | .readGet | .readUnknown _ | .select _ | .writeSet _ _ | .writeUnknown _ _ _ | .selectNone => none
  | .noCommand | .beginReceive _ | .beginTransmit | .rearmListen => none

/-- The value of a hexadecimal digit, capital or small. -/
def hexValue (c : Char) : Option (BitVec 4) :=
  let k := (['0', '1', '2', '3', '4', '5', '6', '7', '8', '9', 'A', 'B', 'C', 'D', 'E', 'F'] : List Char).idxOf c
  let l := (['0', '1', '2', '3', '4', '5', '6', '7', '8', '9', 'a', 'b', 'c', 'd', 'e', 'f'] : List Char).idxOf c
  if k < 16 then some (BitVec.ofNat 4 k) else if l < 16 then some (BitVec.ofNat 4 l) else none

/-- The text before a comment, spaces at its end dropped (R75: `;` starts a comment). -/
def stripComment (line : List Char) : List Char :=
  ((line.takeWhile (· != ';')).reverse.dropWhile (· == ' ')).reverse

/-- One line of an event program read back (R75; log entry 18). -/
def asmLine (line : List Char) : Option Instr :=
  match stripComment line with
  | ['I', 'N', 'I', 'T'] => some .init
  | ['A', 'D', 'D', 'R', ' ', 'R'] => some .addrR
  | ['A', 'D', 'D', 'R', ' ', 'W'] => some .addrW
  | ['R', 'X', ' ', '0', 'x', c, d] =>
    match hexValue c, hexValue d with
    | some h, some l => some (.rx (h ++ l))
    | _, _ => none
  | ['T', 'X', 'C'] => some .txc
  | ['R', 'X', 'C'] => some .rxc
  | ['S', 'T', 'O', 'P'] => some .stop
  | ['E', 'R', 'R'] => some .err
  | _ => none

end Sys2Proof.Machine
end

