-- ==== Sys2Proof/Safety.lean ====
section
/-! DEFINITION. The terms statements use: what a buffer holds, the invariant of 10_state.md section 2, and what
counts as a safe run. -/

namespace Sys2Proof

/-- One of the command words of 30_encoding.md R72. -/
def Command.legal : Command → Bool
  | .none | .beginTransmit | .rearmListen => true
  | .beginReceive off => decide (off.toNat < Config.cap)

end Sys2Proof

namespace Sys2Proof.Machine

/-- The buffer's valid prefix is `bs` and every index beyond it reads as the cleared byte. -/
def Buffer.Holds (B : Buffer) (bs : List Byte) : Prop :=
  B.count = bs.length ∧ ∀ i, B.read i = bs.getD i Config.clearedByte

/-- A buffer as every reachable state has it: within capacity (10_state.md R26), canonical, nothing at or beyond the
fill count but the cleared byte (R27). -/
def Buffer.wf (B : Buffer) : Bool :=
  decide (B.count ≤ Config.cap) && B.data.wf && B.data.all (fun c => decide (c.1 < B.count))

/-- The invariant of the machine: both buffers well formed (R26, R27), OUT empty or holding one response (R28), no
command outside 30_encoding.md R72 (R73), a response of no byte or of `RESP_LEN` bytes. -/
structure State.Inv (s : State) : Prop where
  inbound : s.IN.wf = true
  outbound : s.OUT.wf = true
  responseLoaded : s.OUT.count = 0 ∨ s.OUT.count = Config.respLen
  commandLegal : s.cmd.legal = true
  lastOpLegal : s.lastOp.legal = true
  responseLength : s.resp.length = 0 ∨ s.resp.length = Config.respLen

/-- A run of `k` steps from `s` is safe: it ends in a next state, so nothing in it was refused. -/
def SafeRun (k : Nat) (s : State) : Prop := ∃ t, Sys2Proof.core.run k s = .next t

end Sys2Proof.Machine
end

