-- ==== Sys2Proof/Certificates/Slice0/Obligations.lean ====
section
/-! DEFINITION. The statements for the provers. Each docstring names the rule it formalises; a clause that rests
on a decision of the spec (92_eei_decisions.md D<n>) or on a log entry of the model says so. -/

open Sys2Proof Sys2Proof.Machine

/-! ### Encodings -/

/-- 30_encoding.md section 2 and 95_test_vectors.md section 2: the words written there decode to what is written
beside them, and each register-select row of the opcode table is the decoding of its transaction. The word
layout is the spec's decision D2, D3; presenting a dispatcher row by itself is log entry 8. -/
def Obligations.SpecWordsDecodeToTheirInstructions : Prop :=
  decode (.event 0xF000#16) = .ok .init ∧ decode (.event 0x1100#16) = .ok .addrR ∧
  decode (.event 0x1000#16) = .ok .addrW ∧ decode (.event 0x20FF#16) = .ok (.rx 0xFF#8) ∧
  decode (.event 0x3100#16) = .ok .txc ∧ decode (.event 0x3000#16) = .ok .rxc ∧
  decode (.event 0x4000#16) = .ok .stop ∧ decode (.event 0x5000#16) = .ok .err ∧
  decode (.read 0x08#8) = .ok .readGet ∧ decode (.read 0x09#8) = .ok (.readUnknown 0x09#8) ∧
  decode (.write [0x09#8]) = .ok (.select 0x09#8) ∧ decode (.write []) = .ok .selectNone ∧
  decode (.write [0x09#8, 0x03#8, 0xE8#8]) = .ok (.writeSet 0x03#8 [0xE8#8]) ∧
  decode (.write [0x08#8, 0x03#8]) = .ok (.writeUnknown 0x08#8 0x03#8 []) ∧
  decode (.command 0x0000#16) = .ok .noCommand ∧ decode (.command 0x4104#16) = .ok (.beginReceive 0x04#8) ∧
  decode (.command 0xB200#16) = .ok .beginTransmit ∧ decode (.command 0xC000#16) = .ok .rearmListen

/-- 30_encoding.md sections 2 and 3: no bit of an encoding is dropped. Every well-formed instruction, with every
value of its operands, is what its encoding decodes to. The layouts are the spec's decisions D2 and D3. -/
def Obligations.DecodingAnEncodingGivesTheInstruction : Prop :=
  ∀ i : Instr, i.wf = true → decode (encode i) = .ok i

/-- 30_encoding.md sections 2 and 3: whatever decodes is the encoding of a well-formed instruction, so each has
exactly one encoding. The layouts are the spec's decisions D2 and D3. -/
def Obligations.WhatDecodesIsTheEncodingOfItsInstruction : Prop :=
  ∀ (x : Input) (i : Instr), decode x = .ok i → i.wf = true ∧ encode i = x

/-- 30_encoding.md section 2, the reserved words (the spec's decision D20): a word is refused exactly when its
kind is 0x0 or 0x6 to 0xE, its `rsv` field is nonzero, its `dir` bit is set for a kind other than 0x1 and 0x3,
or its `data` field is nonzero for a kind other than 0x2; presented next, it has no step, from any state. -/
def Obligations.ReservedEventWordsAndOnlyThoseAreRefused : Prop :=
  ∀ w : Word,
    ((w.extractLsb' 12 4 = 0x0#4 ∨ (0x6#4 ≤ w.extractLsb' 12 4 ∧ w.extractLsb' 12 4 ≤ 0xE#4)
        ∨ w.extractLsb' 9 3 ≠ 0#3
        ∨ (w.extractLsb' 8 1 = 1#1 ∧ w.extractLsb' 12 4 ≠ 0x1#4 ∧ w.extractLsb' 12 4 ≠ 0x3#4)
        ∨ (w.extractLsb' 0 8 ≠ 0#8 ∧ w.extractLsb' 12 4 ≠ 0x2#4))
      ↔ ∃ e, decodeEvent w = .error e) ∧
    ∀ (s : State) (rest : List Input) (e : DecodeError), s.inputs = .event w :: rest → decodeEvent w = .error e →
      step s = .refused (.undecodable e)

/-- 30_encoding.md sections 2 and 3: no word is both an event word and a command word. -/
def Obligations.EventAndCommandWordsAreDisjoint : Prop :=
  ∀ (w : Word) (i j : Instr), ¬ (decodeEvent w = .ok i ∧ decodeCommand w = .ok j)

/-- 30_encoding.md section 3 (the layout is the spec's decision D3): the words of the four commands, and the five
fields of a receive command read back from its word. -/
def Obligations.CommandWordsHaveTheirFields : Prop :=
  Command.none.word = 0x0000#16 ∧ Command.beginTransmit.word = 0xB200#16 ∧ Command.rearmListen.word = 0xC000#16 ∧
  ∀ off : Byte, (Command.beginReceive off).word = 0x4100#16 + off.zeroExtend 16 ∧
    cmdOp (Command.beginReceive off).word = 0b01#2 ∧ cmdIsFinal (Command.beginReceive off).word = 0#1 ∧
    cmdBuf (Command.beginReceive off).word = 0#1 ∧ cmdCount (Command.beginReceive off).word = 1#4 ∧
    cmdOffset (Command.beginReceive off).word = off

/-- 30_encoding.md section 4 (the assembler is the spec's decision D28): the line of an event reads back as it. -/
def Obligations.AssemblerLinesReadBack : Prop :=
  ∀ i : Instr, i.isEvent = true → ∃ line, asmText i = some line ∧ asmLine line = some i

/-! ### The step -/

/-- 00_scope.md section 3: a step takes the next input and executes what it decodes to. An event word that spells
no event is refused (30_encoding.md section 2, the spec's decision D20). The rest is the model's own: read, write
and command inputs run (log entries 8 and 9), an over-long write or another command word is refused (log entry 15),
and with nothing presented the core stays as it is (log entry 4). -/
def Obligations.StepRunsTheDecodedInstruction : Prop :=
  (∀ (s : State) (x : Input) (rest : List Input) (i : Instr), s.inputs = x :: rest → decode x = .ok i →
    step s = exec i { s with inputs := rest }) ∧
  (∀ (s : State) (x : Input) (rest : List Input) (e : DecodeError), s.inputs = x :: rest → decode x = .error e →
    step s = .refused (.undecodable e)) ∧
  (∀ s : State, s.inputs = [] → step s = .next s)

/-- 40_state_machine.md section 8: no step leaves `Receiving` or `Transmitting` without an event. A run whose inputs
have ended stays where it is, however many steps are taken (that a step with nothing presented answers the same
state is log entry 4). -/
def Obligations.WithoutAnEventTheCoreStaysParked : Prop :=
  ∀ (s : State) (k : Nat), s.inputs = [] → Sys2Proof.core.run k s = .next s

/-- R50: the state after event `k` is the step applied to the state after event `k - 1`, and no step sees a
later event: running a queue of instructions is folding their meanings, with whatever waits behind them left
waiting. -/
def Obligations.RunningAQueueIsFoldingTheSteps : Prop :=
  ∀ (is : List Instr) (s t : State), (∀ i ∈ is, i.wf = true) → runAll is s = .next t →
    t.inputs = s.inputs ∧ Sys2Proof.core.run is.length (s.queue is) = .next t

/-- 40_state_machine.md section 1 and 60_exceptions.md section 3 (the spec's decisions D16, D26): on an initialised
core no sequence of well-formed inputs, in any order and in any mode, is ever refused, whatever the number of
steps. That the dispatcher's rows and the commands, presented by themselves, run too is log entries 8 and 9, and
that a step past the last input answers a next state is log entry 4. -/
def Obligations.NoSequenceOfEventsIsRefused : Prop :=
  ∀ (s : State) (is : List Instr) (k : Nat), s.initialised = true → (∀ i ∈ is, i.wf = true) →
    SafeRun k { s with inputs := is.map encode }

/-- 70_reset_and_hazards.md section 1 (the spec's decision D29): before the first `INIT` every other instruction is
refused, and `INIT` runs. That the dispatcher's rows and the commands are refused too is log entry 2. -/
def Obligations.BeforeInitOnlyInitRuns : Prop :=
  ∀ s : State, s.initialised = false →
    (∀ i : Instr, i ≠ .init → exec i s = .refused .notInitialised) ∧
    ∃ t, exec .init s = .next t ∧ t.initialised = true

/-! ### Reset and invariants -/

/-- 10_state.md section 5: the values after initialization. That the cleared contents read 0x00 is the spec's
decision D5; that reset is the state after `INIT`, with its outputs, is log entries 1 and 5. -/
def Obligations.ResetHoldsTheInitialValues : Prop :=
  State.reset.mode = .listening ∧ State.reset.reqReg = 0x00#8 ∧ State.reset.dev = 0x0DD6#16 ∧
  State.reset.IN.count = 0 ∧ State.reset.OUT.count = 0 ∧
  (∀ i, State.reset.IN.read i = 0x00#8 ∧ State.reset.OUT.read i = 0x00#8) ∧
  State.reset.cmd.word = 0xC000#16 ∧ State.reset.err.code = 0

/-- The model's invariant holds at reset (10_state.md section 2). -/
def Obligations.ResetMeetsTheInvariant : Prop := State.reset.Inv

/-- 10_state.md section 2: both buffers stay within capacity and canonical with nothing beyond the fill count, OUT
holds no byte or one response, and every command is one of 30_encoding.md section 3. Every step keeps it, from
every state that meets it. -/
def Obligations.EveryStepKeepsTheInvariant : Prop :=
  ∀ s t : State, s.Inv → step s = .next t → t.Inv

/-- R26: at reset and after every step from a state that meets it, neither fill count exceeds the capacity. -/
def Obligations.FillCountsNeverExceedCapacity : Prop :=
  (State.reset.IN.count ≤ Config.cap ∧ State.reset.OUT.count ≤ Config.cap) ∧
  ∀ s t : State, s.IN.count ≤ Config.cap → s.OUT.count ≤ Config.cap → step s = .next t →
    t.IN.count ≤ Config.cap ∧ t.OUT.count ≤ Config.cap

/-- 10_state.md section 2: in every state that meets the invariant each byte at or beyond the fill count of either
buffer reads as 0x00. -/
def Obligations.BytesBeyondTheFillCountReadZero : Prop :=
  ∀ (s : State) (i : Nat), s.Inv →
    (s.IN.count ≤ i → s.IN.read i = 0x00#8) ∧ (s.OUT.count ≤ i → s.OUT.read i = 0x00#8)

/-! ### Buffer operations -/

/-- R161: `Append` writes the byte at the fill count and increments it, or, where the buffer is full, is rejected
with nothing written, and then the step that called it raises `BufferOverflow` and the stop that follows reflects
only the bytes accepted. -/
def Obligations.AppendAddsOneByteOrIsRejected : Prop :=
  (∀ (B : Buffer) (b : Byte), B.count < Config.cap → B.data.wf = true →
    ∃ B', B.append b = some B' ∧ B'.count = B.count + 1 ∧ B'.read B.count = b ∧
      (∀ i, i ≠ B.count → B'.read i = B.read i) ∧ B'.data.wf = true ∧ B'.count ≤ Config.cap) ∧
  (∀ (B : Buffer) (b : Byte), B.count = Config.cap → B.append b = none) ∧
  (∀ (s t : State) (b : Byte), s.IN.append b = none → exec (.rx b) s = .next t →
    t.IN = s.IN ∧ t.err = .bufferOverflow ∧ exec .stop t = exec .stop s)

/-- 42_transaction_buffers.md: `Load` leaves exactly the bytes it is given, whatever the
buffer held (overwriting from index 0 is the spec's decision D13), `ReadAll` returns them, and `ResetBuf`
leaves no byte (the cleared value is decision D5). -/
def Obligations.LoadThenReadAllGivesTheBytes : Prop :=
  ∀ (B : Buffer) (bs : List Byte), bs.length ≤ Config.cap →
    (B.load bs).Holds bs ∧ (B.load bs).data.wf = true ∧ (B.load bs).readAll = bs ∧ B.resetBuf.Holds []

/-! ### The events -/

/-- 40_state_machine.md section 2: `INIT`, from every state, an uninitialised one included (the spec's decision
D21), gives the values of 10_state.md section 5 and re-arms listening. -/
def Obligations.InitResetsEverything : Prop :=
  ∀ s : State, exec .init s = .next
    { mode := .listening, IN := ⟨0, []⟩, OUT := ⟨0, []⟩, reqReg := 0x00#8, dev := 0x0DD6#16, cmd := .rearmListen,
      err := .none, resp := [], lastOp := .rearmListen, inputs := s.inputs, initialised := true }

/-- 40_state_machine.md section 3: a read address match completes in every mode; OUT then holds the two response
bytes and nothing else (the overwrite is the spec's decision D13; 0x09 counting as unknown is D8), the transmit
is commanded, the selection is cleared, and IN and DeviceState are untouched. -/
def Obligations.ReadAddressMatchLoadsTheResponse : Prop :=
  ∀ s : State, s.initialised = true → ∃ B : Buffer,
    B.Holds (if s.reqReg = 0x08#8 then [s.dev.extractLsb' 8 8, s.dev.extractLsb' 0 8] else [0xFF#8, 0xFF#8]) ∧
    exec .addrR s = .next
      { s with
        mode := .transmitting
        OUT := B
        reqReg := 0x00#8
        cmd := .beginTransmit
        lastOp := .beginTransmit
        resp := (if s.reqReg = 0x08#8 then [s.dev.extractLsb' 8 8, s.dev.extractLsb' 0 8] else [0xFF#8, 0xFF#8])
        err := if s.reqReg = 0x08#8 then .none else .unknownRegister }

/-- R64: the response of a read transaction, the valid prefix of OUT right after the address match (where R76 says
it stands), is exactly two bytes, `value[15:8]` then `value[7:0]`, with `value` DeviceState for 0x08 and 0xFFFF
otherwise; 3542 is returned as 0x0D, 0xD6. -/
def Obligations.ReadTransactionReturnsTwoBytes : Prop :=
  ∀ s : State, s.initialised = true → ∃ t, exec .addrR s = .next t ∧
    t.response = (if s.reqReg = 0x08#8 then [s.dev.extractLsb' 8 8, s.dev.extractLsb' 0 8] else [0xFF#8, 0xFF#8]) ∧
    (s.reqReg = 0x08#8 → s.dev = 3542#16 → t.response = [0x0D#8, 0xD6#8])

/-- 40_state_machine.md section 3: a write address match completes in every mode; it asks for one byte at the fill
count, and where IN is full it asks for none and raises `BufferOverflow` (the spec's decision D12). Nothing of
either buffer, of RequestedRegister or of DeviceState changes. -/
def Obligations.WriteAddressMatchAsksForOneByte : Prop :=
  ∀ s : State, s.initialised = true →
    (s.IN.count < Config.cap → exec .addrW s = .next
      { s with
        mode := .receiving
        cmd := .beginReceive (BitVec.ofNat 8 s.IN.count)
        lastOp := .beginReceive (BitVec.ofNat 8 s.IN.count)
        err := .none
        resp := [] }) ∧
    (Config.cap ≤ s.IN.count → exec .addrW s = .next
      { s with mode := .receiving, cmd := .none, err := .bufferOverflow, resp := [] })

/-- 40_state_machine.md section 4: a byte received with room left completes in every mode; it lands at the fill
count, every other byte of IN stays, and one more byte is asked for exactly in `Receiving` with room still left
(the spec's decision D11; that the core writes the byte is D4). -/
def Obligations.ReceivedByteLandsAtTheFillCount : Prop :=
  ∀ (s : State) (b : Byte), s.initialised = true → s.IN.data.wf = true → s.IN.count < Config.cap → ∃ B : Buffer,
    B.count = s.IN.count + 1 ∧ B.read s.IN.count = b ∧ (∀ i, i ≠ s.IN.count → B.read i = s.IN.read i) ∧
    exec (.rx b) s = .next
      { s with
        IN := B
        err := .none
        resp := []
        cmd := (if s.mode = .receiving ∧ s.IN.count + 1 < Config.cap
          then .beginReceive (BitVec.ofNat 8 (s.IN.count + 1)) else .none)
        lastOp := if s.mode = .receiving ∧ s.IN.count + 1 < Config.cap
          then .beginReceive (BitVec.ofNat 8 (s.IN.count + 1)) else s.lastOp }

/-- R166: overflow is an outcome. A byte received with IN full, in every mode, leaves the machine as it was but
for the outputs: no command, label `BufferOverflow`; any number of further bytes does the same; and no received
byte, accepted or not, changes an index at or beyond the capacity. -/
def Obligations.ByteBeyondCapacityIsRejected : Prop :=
  (∀ (s : State) (bs : List Byte) (b : Byte), s.initialised = true → s.IN.count = Config.cap →
    runAll ((bs ++ [b]).map Instr.rx) s = .next { s with cmd := .none, err := .bufferOverflow, resp := [] }) ∧
  (∀ (s t : State) (b : Byte), s.IN.count ≤ Config.cap → exec (.rx b) s = .next t →
    ∀ i, Config.cap ≤ i → t.IN.read i = s.IN.read i)

/-- 40_state_machine.md section 5: the end of a transmit completes in every mode and empties OUT (that the contents
are cleared too is the spec's decision D14); nothing else changes and nothing is commanded. -/
def Obligations.TransmitCompleteEmptiesOut : Prop :=
  ∀ s : State, s.initialised = true →
    exec .txc s = .next { s with OUT := ⟨0, []⟩, cmd := .none, err := .none, resp := [] }

/-- 40_state_machine.md section 5 (the spec's decision D15): the receive direction completes and has no effect. -/
def Obligations.ReceiveCompleteHasNoEffect : Prop :=
  ∀ s : State, s.initialised = true → exec .rxc s = .next { s with cmd := .none, err := .none, resp := [] }

/-- 40_state_machine.md section 6: a stop with at most one byte in IN is a register select, of 0x00 where there is
no byte (the spec's decision D6). The mode is `Listening`, IN is empty, listening is re-armed, and OUT (decision
D18) and DeviceState stay. -/
def Obligations.StopAfterAtMostOneByteSelects : Prop :=
  ∀ s : State, s.initialised = true → s.IN.count ≤ 1 →
    exec .stop s = .next
      { s with
        mode := .listening
        IN := ⟨0, []⟩
        reqReg := if s.IN.count = 0 then 0x00#8 else s.IN.read 0
        cmd := .rearmListen
        lastOp := .rearmListen
        err := .none
        resp := [] }

/-- 40_state_machine.md section 6: a stop with two or more bytes stores the first one in RequestedRegister (the
spec's decision D9) and, where it is 0x09, the big-endian payload in DeviceState, the low byte 0x00 where only
two bytes came (decision D7); another register keeps DeviceState and raises `UnknownRegister` (decision D8).
OUT stays (decision D18). -/
def Obligations.StopAfterAPayloadAppliesTheWrite : Prop :=
  ∀ s : State, s.initialised = true → 2 ≤ s.IN.count →
    exec .stop s = .next
      { s with
        mode := .listening
        IN := ⟨0, []⟩
        reqReg := s.IN.read 0
        dev := (if s.IN.read 0 = 0x09#8 then s.IN.read 1 ++ (if 3 ≤ s.IN.count then s.IN.read 2 else 0x00#8) else s.dev)
        cmd := .rearmListen
        lastOp := .rearmListen
        err := (if s.IN.read 0 = 0x09#8 then .none else .unknownRegister)
        resp := [] }

/-- 40_state_machine.md section 7 (the union of effects is the spec's decision D17): the bus fault completes in
every mode; the mode is `Listening`, both buffers are empty, listening is re-armed, the write in IN is not
applied, and RequestedRegister and DeviceState stay. -/
def Obligations.BusErrorAbandonsTheTransaction : Prop :=
  ∀ s : State, s.initialised = true →
    exec .err s = .next
      { s with
        mode := .listening
        IN := ⟨0, []⟩
        OUT := ⟨0, []⟩
        cmd := .rearmListen
        lastOp := .rearmListen
        err := .busFault
        resp := [] }

/-- R203: `BusFault` is raised by `ERR` and by nothing else; that step re-arms listening, and the transaction in
flight is abandoned: nothing of it is applied. -/
def Obligations.OnlyTheErrorEventRaisesBusFault : Prop :=
  ∀ (i : Instr) (s t : State), exec i s = .next t →
    (t.err = .busFault ↔ i = .err) ∧
    (i = .err → t.cmd = .rearmListen ∧ t.dev = s.dev ∧ t.reqReg = s.reqReg)

/-! ### The events together -/

/-- 40_state_machine.md section 8, the transition table: the mode after each event and the command it emits, from
every mode. -/
def Obligations.ModesAndCommandsFollowTheTable : Prop :=
  ∀ (i : Instr) (s : State), s.initialised = true → i.isEvent = true → ∃ t, exec i s = .next t ∧
    t.mode = (match i with
      | .init | .stop | .err => .listening
      | .addrR => .transmitting
      | .addrW => .receiving
      | _ => s.mode) ∧
    t.cmd = (match i with
      | .init | .stop | .err => .rearmListen
      | .addrR => .beginTransmit
      | .addrW => if s.IN.count < Config.cap then .beginReceive (BitVec.ofNat 8 t.IN.count) else .none
      | .rx _ => if s.mode = .receiving ∧ s.IN.count < Config.cap ∧ t.IN.count < Config.cap
          then .beginReceive (BitVec.ofNat 8 t.IN.count) else .none
      | _ => .none)

/-- 40_state_machine.md section 1 (the spec's decision D16): no event but `RX` reads the mode. From two states that
differ only in the mode the same event gives states that differ at most in the mode, and not at all unless
the event is one that keeps the mode. -/
def Obligations.OnlyAReceivedByteReadsTheMode : Prop :=
  ∀ (i : Instr) (s t : State) (m : Mode), i.isEvent = true → (∀ b, i ≠ .rx b) → exec i s = .next t →
    ∃ u, exec i { s with mode := m } = .next u ∧ { u with mode := t.mode } = t ∧
      (i ≠ .txc → i ≠ .rxc → u = t)

/-- 60_exceptions.md sections 1 and 2: each label is raised exactly where its cause holds (`ADDR_W` with IN full is
the spec's decision D12; 0x09 not readable and 0x08 not writable is D8). -/
def Obligations.EventLabelsHaveExactlyTheirCauses : Prop :=
  ∀ (i : Instr) (s t : State), i.isEvent = true → exec i s = .next t →
    (t.err = .bufferOverflow ↔ Config.cap ≤ s.IN.count ∧ (i = .addrW ∨ ∃ b, i = .rx b)) ∧
    (t.err = .unknownRegister ↔
      (i = .addrR ∧ s.reqReg ≠ 0x08#8) ∨ (i = .stop ∧ 2 ≤ s.IN.count ∧ s.IN.read 0 ≠ 0x09#8)) ∧
    (t.err = .busFault ↔ i = .err)

/-- 10_state.md section 4, the table of which event writes which field; the dispatcher's rows write only what
41_register_dispatcher.md section 1 lets them, and a command nothing but the outputs (log entries 8 and 9).
No instruction reads ahead in the inputs or makes the core uninitialised. -/
def Obligations.EveryInstructionWritesOnlyItsFields : Prop :=
  ∀ (i : Instr) (s t : State), exec i s = .next t →
    (t.mode ≠ s.mode → i = .init ∨ i = .addrR ∨ i = .addrW ∨ i = .stop ∨ i = .err) ∧
    (t.IN ≠ s.IN → i = .init ∨ (∃ b, i = .rx b) ∨ i = .stop ∨ i = .err) ∧
    (t.OUT ≠ s.OUT → i = .init ∨ i = .addrR ∨ i = .txc ∨ i = .err) ∧
    (t.reqReg ≠ s.reqReg → i = .init ∨ i = .addrR ∨ i = .stop ∨ i = .selectNone ∨ (∃ r, i = .select r) ∨
      (∃ hi rest, i = .writeSet hi rest) ∨ ∃ r hi rest, i = .writeUnknown r hi rest) ∧
    (t.dev ≠ s.dev → i = .init ∨ i = .stop ∨ ∃ hi rest, i = .writeSet hi rest) ∧
    t.inputs = s.inputs ∧ t.initialised = true

/-- 10_state.md section 1: DeviceState is changed by nothing but initialization, which sets it to 0x0DD6, and a
completed write of two or more bytes whose first is 0x09 (the dispatcher's own row for it, presented by itself, is
log entry 8). -/
def Obligations.DeviceStateChangesOnlyBySetOrInit : Prop :=
  ∀ (i : Instr) (s t : State), exec i s = .next t → t.dev ≠ s.dev →
    (i = .init ∧ t.dev = 0x0DD6#16) ∨ (i = .stop ∧ 2 ≤ s.IN.count ∧ s.IN.read 0 = 0x09#8) ∨
    ∃ hi rest, i = .writeSet hi rest

/-- 30_encoding.md section 3: no instruction ends with a command word other than the eight of its table; in
particular no receive at an offset of CAP or more and no transmit that is not final. -/
def Obligations.OnlyTheListedCommandWordsAreEmitted : Prop :=
  ∀ (i : Instr) (s t : State), i.wf = true → exec i s = .next t →
    t.cmd.word ∈ [0x0000#16, 0x4100#16, 0x4101#16, 0x4102#16, 0x4103#16, 0x4104#16, 0xB200#16, 0xC000#16]

/-- 40_state_machine.md section 8: one byte at a time. A receive asks for one byte, not final, at the fill count (the
word's layout is the spec's decision D3, the condition D11); a write is interpreted only at its stop: its
address match and its bytes change neither RequestedRegister nor DeviceState, and its stop applies what IN holds: the
first byte is the register, 0x00 where there is none (decision D6), selected whatever follows (D9), and a write of
two or more bytes to 0x09, and no other (D8), stores its payload, the low byte 0x00 where none came (D7). -/
def Obligations.AWriteIsReceivedByteByByteAndInterpretedAtItsStop : Prop :=
  (∀ (i : Instr) (s t : State), i = .addrW ∨ (∃ b, i = .rx b) → exec i s = .next t →
    t.reqReg = s.reqReg ∧ t.dev = s.dev ∧
    (t.cmd.word = 0x0000#16 ∨ (cmdOp t.cmd.word = 0b01#2 ∧ cmdCount t.cmd.word = 1#4 ∧ cmdIsFinal t.cmd.word = 0#1 ∧
      cmdOffset t.cmd.word = BitVec.ofNat 8 t.IN.count))) ∧
  (∀ s : State, s.initialised = true → ∃ t, exec .stop s = .next t ∧
    t.reqReg = (if s.IN.count = 0 then 0x00#8 else s.IN.read 0) ∧
    t.dev = if 2 ≤ s.IN.count ∧ s.IN.read 0 = 0x09#8
      then s.IN.read 1 ++ (if 3 ≤ s.IN.count then s.IN.read 2 else 0x00#8) else s.dev)

/-! ### The Register Dispatcher -/

/-- R140: the dispatcher holds no state of its own. `BuildResponse` writes no state, only its response and a label,
and its response depends on its argument and DeviceState alone; `ApplyWrite` writes RequestedRegister always,
DeviceState where the write targets 0x09, and a label, and what it stores in either depends on IN alone. -/
def Obligations.TheDispatcherTouchesOnlyWhatItMay : Prop :=
  (∀ (id : Byte) (s : State), { s.buildResponse id with resp := s.resp, err := s.err } = s) ∧
  (∀ (id : Byte) (s s' : State), s.dev = s'.dev → (s.buildResponse id).resp = (s'.buildResponse id).resp) ∧
  (∀ s : State, { s.applyWrite s.IN.count with reqReg := s.reqReg, dev := s.dev, err := s.err } = s ∧
    ((s.applyWrite s.IN.count).dev ≠ s.dev → 2 ≤ s.IN.count ∧ s.IN.read 0 = 0x09#8)) ∧
  (∀ s s' : State, s.IN = s'.IN → (s.applyWrite s.IN.count).reqReg = (s'.applyWrite s'.IN.count).reqReg ∧
    (2 ≤ s.IN.count → s.IN.read 0 = 0x09#8 → (s.applyWrite s.IN.count).dev = (s'.applyWrite s'.IN.count).dev))

/-- 41_register_dispatcher.md section 2: the read rows. The device value most significant byte first for register
0x08, and 0xFF, 0xFF with `UnknownRegister` for every other, 0x09 among them (the spec's decision D8); no state
is written. That the response is an output of its own is log entry 6, executing a row by itself log entry 8. -/
def Obligations.ReadRowsReturnTwoBytes : Prop :=
  (∀ s : State, s.initialised = true → exec .readGet s = .next
    { s with resp := [s.dev.extractLsb' 8 8, s.dev.extractLsb' 0 8], cmd := .none, err := .none }) ∧
  (∀ (s : State) (r : Byte), s.initialised = true → r ≠ 0x08#8 → exec (.readUnknown r) s = .next
    { s with resp := [0xFF#8, 0xFF#8], cmd := .none, err := .unknownRegister }) ∧
  (∀ id : Byte, decode (.read id) = .ok (if id = 0x08#8 then .readGet else .readUnknown id))

/-- 41_register_dispatcher.md section 3: a write transaction of one byte stores it in RequestedRegister at its stop,
whatever the byte, never changes DeviceState and raises nothing; every register but 0x08, so selected, yields 0xFF,
0xFF when it is read (that 0x09 does too is the spec's decision D8). -/
def Obligations.OneByteWriteOnlySelects : Prop :=
  ∀ s : State, s.initialised = true → s.IN.count = 1 → ∃ t, exec .stop s = .next t ∧
    t.reqReg = s.IN.read 0 ∧ t.dev = s.dev ∧ t.err = .none ∧
    (s.IN.read 0 ≠ 0x08#8 → ∃ u, exec .addrR t = .next u ∧ u.response = [0xFF#8, 0xFF#8])

/-- 41_register_dispatcher.md section 3: the rows of `ApplyWrite`. A select stores its byte; a write to 0x09 stores
its payload (the low byte 0x00 where none came is the spec's decision D7); a write to another register keeps
DeviceState and raises `UnknownRegister` (decision D8); both store the register id (decision D9); a write of no
byte stores 0x00 (decision D6). Executing a row by itself is log entry 8. -/
def Obligations.WriteRowsStoreWhatTheySay : Prop :=
  (∀ (s : State) (r : Byte), s.initialised = true → exec (.select r) s = .next
    { s with reqReg := r, cmd := .none, err := .none, resp := [] }) ∧
  (∀ (s : State) (hi : Byte) (rest : List Byte), s.initialised = true → exec (.writeSet hi rest) s = .next
    { s with dev := hi ++ rest.headD 0x00#8, reqReg := 0x09#8, cmd := .none, err := .none, resp := [] }) ∧
  (∀ (s : State) (r hi : Byte) (rest : List Byte), s.initialised = true → r ≠ 0x09#8 →
    exec (.writeUnknown r hi rest) s = .next
      { s with reqReg := r, cmd := .none, err := .unknownRegister, resp := [] }) ∧
  (∀ s : State, s.initialised = true → exec .selectNone s = .next
    { s with reqReg := 0x00#8, cmd := .none, err := .none, resp := [] })

/-- 40_state_machine.md section 6 and 41_register_dispatcher.md section 3: the stop of a transaction runs the
dispatcher's row of the bytes IN holds, no other and nothing more of the dispatcher, then ends the transaction.
That the rows are instructions of their own is log entry 8. -/
def Obligations.StopRunsTheDispatcherRowOfItsBytes : Prop :=
  ∀ s : State, s.initialised = true → s.IN.count ≤ Config.cap → ∃ i u,
    decode (.write s.IN.readAll) = .ok i ∧ exec i s = .next u ∧
    exec .stop s = .next
      { u with mode := .listening, IN := ⟨0, []⟩, cmd := .rearmListen, lastOp := .rearmListen }

/-- 40_state_machine.md section 3 and 41_register_dispatcher.md section 2: a read address match runs the dispatcher's
row of the selected register and loads what it returned. That the rows are instructions of their own is log
entry 8. -/
def Obligations.ReadAddressMatchRunsTheDispatcherRow : Prop :=
  ∀ s : State, s.initialised = true → ∃ i u t,
    decode (.read s.reqReg) = .ok i ∧ exec i s = .next u ∧ exec .addrR s = .next t ∧
    t.OUT.Holds u.resp ∧ t.err = u.err ∧ t.dev = u.dev ∧ t.IN = u.IN

/-- R63: of the bytes a write transaction put in IN, byte 0 is the register, bytes 1 and 2 the payload, high byte
first, and bytes 3 and 4 are ignored: two buffers with the same count that agree on the first three bytes give
the same stop. -/
def Obligations.OnlyTheFirstThreeBytesOfAWriteMatter : Prop :=
  (∀ (s : State) (B : Buffer), B.count = s.IN.count → (∀ i, i < 3 → i < s.IN.count → B.read i = s.IN.read i) →
    exec .stop { s with IN := B } = exec .stop s) ∧
  (∀ s : State, s.initialised = true → 1 ≤ s.IN.count → ∃ t, exec .stop s = .next t ∧
    (s.IN.count = 1 → t.reqReg = s.IN.read 0) ∧
    (3 ≤ s.IN.count → s.IN.read 0 = 0x09#8 →
      t.dev.extractLsb' 8 8 = s.IN.read 1 ∧ t.dev.extractLsb' 0 8 = s.IN.read 2))

/-- 00_scope.md section 4 (`SET_SELECTS`, the spec's decision D9): the parameter decides only whether a write of two
or more bytes also selects its register. -/
def Obligations.TheCouplingDecidesOnlyTheSelection : Prop :=
  ∀ (n : Nat) (s : State),
    s.applyWriteWith false n =
      { s.applyWriteWith true n with reqReg := if 2 ≤ n then s.reqReg else (s.applyWriteWith true n).reqReg } ∧
    (2 ≤ n → (s.applyWriteWith true n).reqReg = s.IN.read 0) ∧
    s.applyWrite n = s.applyWriteWith true n

/-! ### The commands -/

/-- 00_scope.md section 5 and 30_encoding.md section 3: emitting a command sets the step's command output to it and
changes nothing of the core; it is then the last operation commanded, unless it is `NONE` (log entries 7 and 9). -/
def Obligations.EmittingACommandSetsOnlyTheOutput : Prop :=
  ∀ s : State, s.initialised = true →
    exec .noCommand s = .next { s with cmd := .none, err := .none, resp := [] } ∧
    (∀ off : Byte, off.toNat < Config.cap → exec (.beginReceive off) s = .next
      { s with cmd := .beginReceive off, lastOp := .beginReceive off, err := .none, resp := [] }) ∧
    exec .beginTransmit s = .next
      { s with cmd := .beginTransmit, lastOp := .beginTransmit, err := .none, resp := [] } ∧
    exec .rearmListen s = .next { s with cmd := .rearmListen, lastOp := .rearmListen, err := .none, resp := [] }

/-! ### Transactions -/

/-- R142: register 0x08 reads as DeviceState, most significant byte first, with no label; and SET(v) followed by GET
returns exactly v, for every v and from every state of a core in `Listening` with IN empty. -/
def Obligations.SetThenGetReturnsTheValue : Prop :=
  (∀ s : State, s.initialised = true → s.reqReg = 0x08#8 → ∃ t, exec .addrR s = .next t ∧
    t.response = [s.dev.extractLsb' 8 8, s.dev.extractLsb' 0 8] ∧ t.err = .none) ∧
  (∀ (s : State) (v : Word), s.initialised = true → s.Inv → s.mode = .listening → s.IN.count = 0 → ∃ t u,
    runAll ((Pseudo.set 0x09#8 v).expand ++ (Pseudo.select 0x08#8).expand) s = .next t ∧ t.dev = v ∧
    exec .addrR t = .next u ∧ u.response = [v.extractLsb' 8 8, v.extractLsb' 0 8] ∧ u.err = .none)

/-- R242: a read consumes the selection. Each `ADDR_R`, in every mode and whatever the buffers hold, clears
RequestedRegister, so a second bare read returns 0xFF, 0xFF, whatever was selected before the first (no byte
waiting in IN, which the first read's stop would select). -/
def Obligations.AReadConsumesTheSelection : Prop :=
  ∀ s : State, s.initialised = true →
    (∃ t, exec .addrR s = .next t ∧ t.reqReg = 0x00#8) ∧
    (s.IN.count = 0 → ∃ u, runAll (Pseudo.read.expand ++ [.addrR]) s = .next u ∧
      u.response = [0xFF#8, 0xFF#8] ∧ u.err = .unknownRegister)

/-- 70_reset_and_hazards.md section 2, the first hazard: with no stop between a select and the read, the response
comes from the old selection, and the read's own stop applies the select to the next read. -/
def Obligations.WithoutAStopTheSelectWaitsForTheNextRead : Prop :=
  ∀ (s : State) (r : Byte), s.initialised = true → s.IN.data.wf = true → s.IN.count = 0 → ∃ t u,
    runAll [.addrW, .rx r, .addrR] s = .next t ∧
    t.response = (if s.reqReg = 0x08#8 then wordBytes s.dev else [0xFF#8, 0xFF#8]) ∧
    runAll [.txc, .stop] t = .next u ∧ u.reqReg = r ∧ u.dev = s.dev

/-- 70_reset_and_hazards.md section 2, the second hazard: a byte that arrives after the stop is kept and arms nothing.
Where a read comes next, the read's stop applies it as a select; where a write comes next, the receive is asked at
offset 1, the write's byte lands after it, and the stop takes the late byte as the register (that a write of two
bytes selects its register is the spec's decision D9). -/
def Obligations.ALateByteJoinsTheNextTransaction : Prop :=
  ∀ (s : State) (b c : Byte), s.initialised = true → s.IN.data.wf = true → s.mode = .listening → s.IN.count = 0 →
    ∃ t, exec (.rx b) s = .next t ∧ t.cmd = .none ∧ t.mode = .listening ∧ t.IN.count = 1 ∧ t.IN.read 0 = b ∧
      (∃ u, runAll Pseudo.read.expand t = .next u ∧ u.reqReg = b ∧ u.IN.count = 0) ∧
      (∃ v w x, exec .addrW t = .next v ∧ v.cmd.word = 0x4101#16 ∧ exec (.rx c) v = .next w ∧
        w.IN.count = 2 ∧ w.IN.read 0 = b ∧ w.IN.read 1 = c ∧ exec .stop w = .next x ∧ x.reqReg = b ∧ x.IN.count = 0)

/-- 70_reset_and_hazards.md section 2: a SET leaves 0x09 selected (the spec's decision D9), so a bare read right
after it returns 0xFF, 0xFF (decision D8) and not the value written. -/
def Obligations.ABareReadAfterASetReturnsTheSentinel : Prop :=
  ∀ (s : State) (v : Word), s.initialised = true → s.IN.data.wf = true → s.IN.count = 0 → ∃ t u,
    runAll (Pseudo.set 0x09#8 v).expand s = .next t ∧ t.dev = v ∧ t.reqReg = 0x09#8 ∧
    exec .addrR t = .next u ∧ u.response = [0xFF#8, 0xFF#8]
end

