-- ==== Sys2Proof/Laws/Config.lean ====
section
/-! SUPPORT. The values of the parameters as rewriting rules, so that no proof unfolds a parameter. -/

namespace Sys2Proof.Config

@[simp] theorem cap_eq : cap = 5 := rfl

/-- The range a capacity must lie in (00_scope.md R8, decision D32). -/
theorem cap_range : 3 ≤ cap ∧ cap ≤ 255 := by decide

@[simp] theorem respLen_eq : respLen = 2 := rfl
@[simp] theorem regGet_eq : regGet = 0x08#8 := rfl
@[simp] theorem regSet_eq : regSet = 0x09#8 := rfl
@[simp] theorem regNone_eq : regNone = 0x00#8 := rfl
@[simp] theorem initValue_eq : initValue = 0x0DD6#16 := rfl
@[simp] theorem unknownResp_eq : unknownResp = 0xFFFF#16 := rfl
@[simp] theorem setSelects_eq : setSelects = true := rfl
@[simp] theorem clearedByte_eq : clearedByte = 0x00#8 := rfl

end Sys2Proof.Config
end

