-- ==== Sys2Proof/Laws/Memory.lean ====
section
/-! SUPPORT. The laws of memory: a read after a write, the canonical form kept by every operation, and equality of
canonical memories that read alike. -/

namespace Sys2Proof.Machine.Memory

@[simp] theorem read_nil (i : Nat) : Memory.read [] i = 0x00#8 := rfl

@[simp] theorem read_cons (c : Host.Cell) (m : Memory) (i : Nat) :
    Memory.read (c :: m) i = if i = c.1 then c.2 else Memory.read m i := rfl

@[simp] theorem wfFrom_nil (lo : Nat) : Memory.wfFrom lo [] = true := rfl

theorem wfFrom_cons {lo : Nat} {c : Host.Cell} {m : Memory} :
    Memory.wfFrom lo (c :: m) = true ↔ lo ≤ c.1 ∧ c.2 ≠ Config.clearedByte ∧ Memory.wfFrom (c.1 + 1) m = true := by
  simp [Memory.wfFrom, and_assoc]

@[simp] theorem wf_nil : Memory.wf [] = true := rfl

theorem wfFrom_anti {lo lo' : Nat} {m : Memory} (hl : lo ≤ lo') (h : Memory.wfFrom lo' m = true) :
    Memory.wfFrom lo m = true := by
  cases m with
  | nil => rfl
  | cons c m =>
    obtain ⟨h1, h2, h3⟩ := wfFrom_cons.mp h
    exact wfFrom_cons.mpr ⟨hl.trans h1, h2, h3⟩

/-- Below the first index of a canonical memory everything reads as cleared. -/
theorem read_of_lt {lo i : Nat} {m : Memory} (h : Memory.wfFrom lo m = true) (hi : i < lo) :
    Memory.read m i = Config.clearedByte := by
  induction m generalizing lo with
  | nil => rfl
  | cons c m ih =>
    obtain ⟨h1, -, h3⟩ := wfFrom_cons.mp h
    have hne : i ≠ c.1 := by omega
    rw [read_cons, if_neg hne]
    exact ih h3 (by omega)

theorem wfFrom_write {lo i : Nat} {m : Memory} (v : Byte) (h : Memory.wfFrom lo m = true) (hi : lo ≤ i) :
    Memory.wfFrom lo (m.write i v) = true := by
  induction m generalizing lo with
  | nil =>
    unfold Memory.write
    split
    · rfl
    · exact wfFrom_cons.mpr ⟨hi, ‹_›, rfl⟩
  | cons c m ih =>
    obtain ⟨h1, h2, h3⟩ := wfFrom_cons.mp h
    unfold Memory.write
    split
    · split
      · exact h
      · exact wfFrom_cons.mpr ⟨hi, ‹_›, wfFrom_cons.mpr ⟨by omega, h2, h3⟩⟩
    · split
      · subst i
        split
        · exact wfFrom_anti (by omega) h3
        · exact wfFrom_cons.mpr ⟨h1, ‹_›, h3⟩
      · exact wfFrom_cons.mpr ⟨h1, h2, ih h3 (by omega)⟩

/-- Every write keeps the canonical form. -/
theorem wf_write {m : Memory} (i : Nat) (v : Byte) (h : m.wf = true) : (m.write i v).wf = true :=
  wfFrom_write v h (Nat.zero_le i)

theorem read_write_same_from {lo i : Nat} {m : Memory} (v : Byte) (h : Memory.wfFrom lo m = true) :
    (m.write i v).read i = v := by
  induction m generalizing lo with
  | nil => unfold Memory.write; split <;> simp_all
  | cons c m ih =>
    obtain ⟨h1, h2, h3⟩ := wfFrom_cons.mp h
    unfold Memory.write
    split
    · have hne : i ≠ c.1 := by omega
      split
      · rw [read_cons, if_neg hne, read_of_lt h3 (by omega)]
        exact Eq.symm ‹_›
      · simp
    · split
      · subst i
        split
        · rw [read_of_lt h3 (by omega)]
          exact Eq.symm ‹_›
        · simp
      · rw [read_cons, if_neg ‹_›]
        exact ih h3

/-- A read after a write to the same index gives the value written. -/
theorem read_write_same {m : Memory} (i : Nat) (v : Byte) (h : m.wf = true) : (m.write i v).read i = v :=
  read_write_same_from v h

/-- A write leaves every other index alone. -/
theorem read_write_other {m : Memory} {i j : Nat} (v : Byte) (hij : j ≠ i) : (m.write i v).read j = m.read j := by
  induction m with
  | nil => unfold Memory.write; split <;> simp [hij]
  | cons c m ih =>
    unfold Memory.write
    split
    · split <;> simp [hij]
    · split
      · subst i
        split <;> simp [hij]
      · simp [ih]

/-- A write at `i` lists no index beyond the ones below `n` and `i` itself. -/
theorem all_lt_write {m : Memory} {n i : Nat} (v : Byte) (h : ∀ c ∈ m, c.1 < n) (hi : i < n) :
    ∀ c ∈ m.write i v, c.1 < n := by
  induction m with
  | nil =>
    intro c hc
    unfold Memory.write at hc
    split at hc <;> simp_all
  | cons d m ih =>
    have hd := h d (by simp)
    have hm : ∀ c ∈ m, c.1 < n := fun c hc => h c (by simp [hc])
    intro c hc
    unfold Memory.write at hc
    split at hc
    · split at hc <;> simp at hc <;> rcases hc with rfl | hc <;> try assumption
      · exact hm c hc
      · rcases hc with rfl | hc
        · exact hd
        · exact hm c hc
    · split at hc
      · split at hc
        · exact hm c hc
        · rcases List.mem_cons.mp hc with rfl | hc
          · exact hi
          · exact hm c hc
      · rcases List.mem_cons.mp hc with rfl | hc
        · exact hd
        · exact ih hm c hc

/-- An index no entry lists reads as cleared. -/
theorem read_of_all_lt {m : Memory} {n i : Nat} (h : ∀ c ∈ m, c.1 < n) (hi : n ≤ i) :
    m.read i = Config.clearedByte := by
  induction m with
  | nil => rfl
  | cons c m ih =>
    have hc := h c (by simp)
    rw [read_cons, if_neg (by omega)]
    exact ih fun d hd => h d (by simp [hd])

theorem eq_of_read_eq_from {lo : Nat} {m m' : Memory} (h : Memory.wfFrom lo m = true) (h' : Memory.wfFrom lo m' = true)
    (hr : ∀ i, m.read i = m'.read i) : m = m' := by
  induction m generalizing lo m' with
  | nil =>
    cases m' with
    | nil => rfl
    | cons c m' =>
      have := hr c.1
      exact absurd (by simpa using this.symm) (wfFrom_cons.mp h').2.1
  | cons c m ih =>
    obtain ⟨h1, h2, h3⟩ := wfFrom_cons.mp h
    cases m' with
    | nil => exact absurd (by simpa using hr c.1) h2
    | cons d m' =>
      obtain ⟨h1', h2', h3'⟩ := wfFrom_cons.mp h'
      have hcd : c.1 = d.1 := by
        rcases Nat.lt_trichotomy c.1 d.1 with hlt | heq | hgt
        · have := hr c.1
          rw [read_cons, read_cons, if_pos rfl, if_neg (by omega), read_of_lt h3' (by omega)] at this
          exact absurd this h2
        · exact heq
        · have := hr d.1
          rw [read_cons, read_cons, if_pos rfl, if_neg (by omega), read_of_lt h3 (by omega)] at this
          exact absurd this.symm h2'
      have hv : c.2 = d.2 := by simpa [hcd] using hr c.1
      have hm : m = m' := by
        refine ih h3 (hcd ▸ h3') fun i => ?_
        rcases Nat.lt_or_ge c.1 i with hlt | hge
        · have := hr i
          rwa [read_cons, read_cons, if_neg (by omega), if_neg (by omega)] at this
        · rw [read_of_lt h3 (by omega), read_of_lt h3' (by omega)]
      rw [hm, Prod.ext hcd hv]

/-- Canonical memories that read alike at every index are equal. -/
theorem eq_of_read_eq {m m' : Memory} (h : m.wf = true) (h' : m'.wf = true) (hr : ∀ i, m.read i = m'.read i) : m = m' :=
  eq_of_read_eq_from h h' hr

end Sys2Proof.Machine.Memory
end

