-- ==== Sys2Proof/Laws/Buffer.lean ====
section
/-! SUPPORT. What each buffer operation can do, said once (42_transaction_buffers.md), and that each keeps a buffer
well formed. -/

namespace Sys2Proof.Machine.Buffer

@[simp] theorem empty_count : Buffer.empty.count = 0 := rfl
@[simp] theorem empty_data : Buffer.empty.data = [] := rfl
@[simp] theorem empty_read (i : Nat) : Buffer.empty.read i = 0x00#8 := rfl
@[simp] theorem resetBuf_eq (B : Buffer) : B.resetBuf = Buffer.empty := rfl

theorem append_eq_none {B : Buffer} {b : Byte} (h : Config.cap ≤ B.count) : B.append b = none := by
  rw [Buffer.append, if_neg (by omega)]

theorem append_eq_some {B : Buffer} {b : Byte} (h : B.count < Config.cap) :
    B.append b = some { count := B.count + 1, data := B.data.write B.count b } := by
  rw [Buffer.append, if_pos h]

/-- Everything an accepted append does. -/
theorem append_spec {B B' : Buffer} {b : Byte} (h : B.append b = some B') :
    B.count < Config.cap ∧ B'.count = B.count + 1 ∧ (B.data.wf = true → B'.read B.count = b ∧ B'.data.wf = true) ∧
      ∀ i, i ≠ B.count → B'.read i = B.read i := by
  unfold Buffer.append at h
  split at h
  · obtain rfl := Option.some.inj h
    exact ⟨‹_›, rfl, fun hw => ⟨Memory.read_write_same _ _ hw, Memory.wf_write _ _ hw⟩,
      fun i hi => Memory.read_write_other _ hi⟩
  · cases h

theorem wf_iff {B : Buffer} :
    B.wf = true ↔ B.count ≤ Config.cap ∧ B.data.wf = true ∧ ∀ c ∈ B.data, c.1 < B.count := by
  simp [Buffer.wf, and_assoc]

theorem wf_empty : Buffer.empty.wf = true := rfl

theorem wf_append {B B' : Buffer} {b : Byte} (hw : B.wf = true) (h : B.append b = some B') : B'.wf = true := by
  obtain ⟨-, hd, ha⟩ := wf_iff.mp hw
  unfold Buffer.append at h
  split at h
  · obtain rfl := Option.some.inj h
    exact wf_iff.mpr ⟨‹_›, Memory.wf_write _ _ hd,
      Memory.all_lt_write b (fun c hc => Nat.lt_succ_of_lt (ha c hc)) (Nat.lt_succ_self _)⟩
  · cases h

theorem wf_appendAll {B : Buffer} (bs : List Byte) (hw : B.wf = true) : (B.appendAll bs).wf = true := by
  induction bs generalizing B with
  | nil => exact hw
  | cons b bs ih =>
    unfold Buffer.appendAll
    split
    · exact ih (wf_append hw ‹_›)
    · exact hw

theorem wf_load (B : Buffer) (bs : List Byte) : (B.load bs).wf = true := wf_appendAll bs wf_empty

/-- The buffer after loading two bytes, the only length a response has. -/
theorem load_two (B : Buffer) (a b : Byte) : B.load [a, b] = ⟨2, (Memory.write [] 0 a).write 1 b⟩ := rfl

theorem load_two_read (B : Buffer) (a b : Byte) (i : Nat) :
    (B.load [a, b]).read i = if i = 0 then a else if i = 1 then b else 0x00#8 := by
  have hw : (Memory.write [] 0 a).wf = true := Memory.wf_write 0 a rfl
  rw [load_two]
  change ((Memory.write [] 0 a).write 1 b).read i = _
  by_cases h1 : i = 1
  · subst h1
    simpa using Memory.read_write_same 1 b hw
  · rw [Memory.read_write_other b h1]
    by_cases h0 : i = 0
    · subst h0
      simpa using Memory.read_write_same 0 a Memory.wf_nil
    · rw [Memory.read_write_other a h0]
      simp [h0, h1]

@[simp] theorem length_readAll (B : Buffer) : B.readAll.length = B.count := by simp [Buffer.readAll]

theorem getElem?_readAll {B : Buffer} {i : Nat} (h : i < B.count) : B.readAll[i]? = some (B.read i) := by
  simp [Buffer.readAll, h]

/-- The first bytes of the valid prefix, one at a time. -/
theorem readAll_of_two_le {B : Buffer} (h : 2 ≤ B.count) :
    B.readAll = B.read 0 :: B.read 1 :: ((List.range (B.count - 2)).map fun i => B.read (i + 2)) := by
  obtain ⟨n, hn⟩ := Nat.exists_eq_add_of_le h
  have : B.count = n + 1 + 1 := by omega
  rw [Buffer.readAll, this, List.range_succ_eq_map, List.range_succ_eq_map]
  simp [Function.comp_def]

end Sys2Proof.Machine.Buffer
end

