-- ==== Sys2Proof/Laws/Decode.lean ====
section
/-! SUPPORT. The fields of event and command words: what each reads from a word built of fields, and that a word is
built of its own. -/

namespace Sys2Proof

theorem evFields_eventWord (k : BitVec 4) (d : BitVec 1) (b : Byte) :
    evKind (eventWord k d b) = k ∧ evRsv (eventWord k d b) = 0#3 ∧ evDir (eventWord k d b) = d ∧
      evData (eventWord k d b) = b := by
  unfold evKind evRsv evDir evData eventWord
  refine ⟨?_, ?_, ?_, ?_⟩ <;> ext i hi <;> simp <;> grind

@[simp] theorem evKind_eventWord (k : BitVec 4) (d : BitVec 1) (b : Byte) : evKind (eventWord k d b) = k :=
  (evFields_eventWord k d b).1

@[simp] theorem evRsv_eventWord (k : BitVec 4) (d : BitVec 1) (b : Byte) : evRsv (eventWord k d b) = 0#3 :=
  (evFields_eventWord k d b).2.1

@[simp] theorem evDir_eventWord (k : BitVec 4) (d : BitVec 1) (b : Byte) : evDir (eventWord k d b) = d :=
  (evFields_eventWord k d b).2.2.1

@[simp] theorem evData_eventWord (k : BitVec 4) (d : BitVec 1) (b : Byte) : evData (eventWord k d b) = b :=
  (evFields_eventWord k d b).2.2.2

/-- A word whose reserved field is zero is built of its kind, direction and data. -/
theorem eventWord_of_fields {w : Word} (h : evRsv w = 0#3) : eventWord (evKind w) (evDir w) (evData w) = w := by
  unfold eventWord
  rw [← h]
  unfold evKind evRsv evDir evData
  ext i hi
  simp only [BitVec.getElem_append, BitVec.getElem_extractLsb']
  grind

theorem cmdFields_commandWord (op : BitVec 2) (f b : BitVec 1) (c : BitVec 4) (off : Byte) :
    cmdOp (commandWord op f b c off) = op ∧ cmdIsFinal (commandWord op f b c off) = f ∧
      cmdBuf (commandWord op f b c off) = b ∧ cmdCount (commandWord op f b c off) = c ∧
      cmdOffset (commandWord op f b c off) = off := by
  unfold cmdOp cmdIsFinal cmdBuf cmdCount cmdOffset commandWord
  refine ⟨?_, ?_, ?_, ?_, ?_⟩ <;> ext i hi <;> simp <;> grind

@[simp] theorem cmdOp_commandWord (op : BitVec 2) (f b : BitVec 1) (c : BitVec 4) (off : Byte) :
    cmdOp (commandWord op f b c off) = op := (cmdFields_commandWord op f b c off).1

@[simp] theorem cmdIsFinal_commandWord (op : BitVec 2) (f b : BitVec 1) (c : BitVec 4) (off : Byte) :
    cmdIsFinal (commandWord op f b c off) = f := (cmdFields_commandWord op f b c off).2.1

@[simp] theorem cmdBuf_commandWord (op : BitVec 2) (f b : BitVec 1) (c : BitVec 4) (off : Byte) :
    cmdBuf (commandWord op f b c off) = b := (cmdFields_commandWord op f b c off).2.2.1

@[simp] theorem cmdCount_commandWord (op : BitVec 2) (f b : BitVec 1) (c : BitVec 4) (off : Byte) :
    cmdCount (commandWord op f b c off) = c := (cmdFields_commandWord op f b c off).2.2.2.1

@[simp] theorem cmdOffset_commandWord (op : BitVec 2) (f b : BitVec 1) (c : BitVec 4) (off : Byte) :
    cmdOffset (commandWord op f b c off) = off := (cmdFields_commandWord op f b c off).2.2.2.2

/-- The operation field tells the four commands apart. -/
@[simp] theorem cmdOp_word (c : Command) :
    cmdOp c.word = match c with
      | .none => 0b00#2
      | .beginReceive _ => 0b01#2
      | .beginTransmit => 0b10#2
      | .rearmListen => 0b11#2 := by
  cases c <;> exact cmdOp_commandWord ..

@[simp] theorem cmdOffset_word_beginReceive (off : Byte) : cmdOffset (Command.beginReceive off).word = off :=
  cmdOffset_commandWord ..

/-- A receive command's word decodes to it exactly where its offset lies in the buffer. -/
theorem decodeCommand_beginReceive (off : Byte) :
    decodeCommand (Command.beginReceive off).word =
      if off.toNat < Config.cap then .ok (.beginReceive off) else .error .offsetBeyondCapacity := by
  have h (c : Command) (hc : cmdOp c.word ≠ 0b01#2) : (Command.beginReceive off).word ≠ c.word :=
    fun he => hc (by rw [← he]; simp)
  simp [decodeCommand, h .none (by simp), h .beginTransmit (by simp), h .rearmListen (by simp)]

end Sys2Proof
end

