-- ==== Sys2Proof/Laws/State.lean ====
section
/-! SUPPORT. One lemma per field per update of the state, true by rfl (by cases for `emit`, which treats `NONE` by
itself), so that no later proof unfolds an update. -/

namespace Sys2Proof.Machine

@[simp] theorem State.beginStep_mode (s : State) : (s.beginStep).mode = s.mode := rfl
@[simp] theorem State.beginStep_IN (s : State) : (s.beginStep).IN = s.IN := rfl
@[simp] theorem State.beginStep_OUT (s : State) : (s.beginStep).OUT = s.OUT := rfl
@[simp] theorem State.beginStep_reqReg (s : State) : (s.beginStep).reqReg = s.reqReg := rfl
@[simp] theorem State.beginStep_dev (s : State) : (s.beginStep).dev = s.dev := rfl
@[simp] theorem State.beginStep_cmd (s : State) : (s.beginStep).cmd = .none := rfl
@[simp] theorem State.beginStep_err (s : State) : (s.beginStep).err = .none := rfl
@[simp] theorem State.beginStep_resp (s : State) : (s.beginStep).resp = [] := rfl
@[simp] theorem State.beginStep_lastOp (s : State) : (s.beginStep).lastOp = s.lastOp := rfl
@[simp] theorem State.beginStep_inputs (s : State) : (s.beginStep).inputs = s.inputs := rfl
@[simp] theorem State.beginStep_initialised (s : State) : (s.beginStep).initialised = s.initialised := rfl

@[simp] theorem State.raise_mode (k : ErrLabel) (s : State) : (s.raise k).mode = s.mode := rfl
@[simp] theorem State.raise_IN (k : ErrLabel) (s : State) : (s.raise k).IN = s.IN := rfl
@[simp] theorem State.raise_OUT (k : ErrLabel) (s : State) : (s.raise k).OUT = s.OUT := rfl
@[simp] theorem State.raise_reqReg (k : ErrLabel) (s : State) : (s.raise k).reqReg = s.reqReg := rfl
@[simp] theorem State.raise_dev (k : ErrLabel) (s : State) : (s.raise k).dev = s.dev := rfl
@[simp] theorem State.raise_cmd (k : ErrLabel) (s : State) : (s.raise k).cmd = s.cmd := rfl
@[simp] theorem State.raise_err (k : ErrLabel) (s : State) : (s.raise k).err = k := rfl
@[simp] theorem State.raise_resp (k : ErrLabel) (s : State) : (s.raise k).resp = s.resp := rfl
@[simp] theorem State.raise_lastOp (k : ErrLabel) (s : State) : (s.raise k).lastOp = s.lastOp := rfl
@[simp] theorem State.raise_inputs (k : ErrLabel) (s : State) : (s.raise k).inputs = s.inputs := rfl
@[simp] theorem State.raise_initialised (k : ErrLabel) (s : State) : (s.raise k).initialised = s.initialised := rfl

@[simp] theorem State.take_mode (s : State) (q : List Input) : (s.take q).mode = s.mode := rfl
@[simp] theorem State.take_IN (s : State) (q : List Input) : (s.take q).IN = s.IN := rfl
@[simp] theorem State.take_OUT (s : State) (q : List Input) : (s.take q).OUT = s.OUT := rfl
@[simp] theorem State.take_reqReg (s : State) (q : List Input) : (s.take q).reqReg = s.reqReg := rfl
@[simp] theorem State.take_dev (s : State) (q : List Input) : (s.take q).dev = s.dev := rfl
@[simp] theorem State.take_cmd (s : State) (q : List Input) : (s.take q).cmd = s.cmd := rfl
@[simp] theorem State.take_err (s : State) (q : List Input) : (s.take q).err = s.err := rfl
@[simp] theorem State.take_resp (s : State) (q : List Input) : (s.take q).resp = s.resp := rfl
@[simp] theorem State.take_lastOp (s : State) (q : List Input) : (s.take q).lastOp = s.lastOp := rfl
@[simp] theorem State.take_inputs (s : State) (q : List Input) : (s.take q).inputs = q := rfl
@[simp] theorem State.take_initialised (s : State) (q : List Input) : (s.take q).initialised = s.initialised := rfl

@[simp] theorem State.present_mode (s : State) (x : Input) : (s.present x).mode = s.mode := rfl
@[simp] theorem State.present_IN (s : State) (x : Input) : (s.present x).IN = s.IN := rfl
@[simp] theorem State.present_OUT (s : State) (x : Input) : (s.present x).OUT = s.OUT := rfl
@[simp] theorem State.present_reqReg (s : State) (x : Input) : (s.present x).reqReg = s.reqReg := rfl
@[simp] theorem State.present_dev (s : State) (x : Input) : (s.present x).dev = s.dev := rfl
@[simp] theorem State.present_cmd (s : State) (x : Input) : (s.present x).cmd = s.cmd := rfl
@[simp] theorem State.present_err (s : State) (x : Input) : (s.present x).err = s.err := rfl
@[simp] theorem State.present_resp (s : State) (x : Input) : (s.present x).resp = s.resp := rfl
@[simp] theorem State.present_lastOp (s : State) (x : Input) : (s.present x).lastOp = s.lastOp := rfl
@[simp] theorem State.present_inputs (s : State) (x : Input) : (s.present x).inputs = x :: s.inputs := rfl
@[simp] theorem State.present_initialised (s : State) (x : Input) : (s.present x).initialised = s.initialised := rfl

@[simp] theorem State.emit_mode (c : Command) (s : State) : (s.emit c).mode = s.mode := by cases c <;> rfl
@[simp] theorem State.emit_IN (c : Command) (s : State) : (s.emit c).IN = s.IN := by cases c <;> rfl
@[simp] theorem State.emit_OUT (c : Command) (s : State) : (s.emit c).OUT = s.OUT := by cases c <;> rfl
@[simp] theorem State.emit_reqReg (c : Command) (s : State) : (s.emit c).reqReg = s.reqReg := by cases c <;> rfl
@[simp] theorem State.emit_dev (c : Command) (s : State) : (s.emit c).dev = s.dev := by cases c <;> rfl
@[simp] theorem State.emit_cmd (c : Command) (s : State) : (s.emit c).cmd = c := by cases c <;> rfl
@[simp] theorem State.emit_err (c : Command) (s : State) : (s.emit c).err = s.err := by cases c <;> rfl
@[simp] theorem State.emit_resp (c : Command) (s : State) : (s.emit c).resp = s.resp := by cases c <;> rfl
theorem State.emit_lastOp (c : Command) (s : State) :
    (s.emit c).lastOp = if c = .none then s.lastOp else c := by cases c <;> rfl
@[simp] theorem State.emit_inputs (c : Command) (s : State) : (s.emit c).inputs = s.inputs := by cases c <;> rfl
@[simp] theorem State.emit_initialised (c : Command) (s : State) : (s.emit c).initialised = s.initialised := by cases c <;> rfl

@[simp] theorem State.readGet_mode (s : State) : (s.readGet).mode = s.mode := rfl
@[simp] theorem State.readGet_IN (s : State) : (s.readGet).IN = s.IN := rfl
@[simp] theorem State.readGet_OUT (s : State) : (s.readGet).OUT = s.OUT := rfl
@[simp] theorem State.readGet_reqReg (s : State) : (s.readGet).reqReg = s.reqReg := rfl
@[simp] theorem State.readGet_dev (s : State) : (s.readGet).dev = s.dev := rfl
@[simp] theorem State.readGet_cmd (s : State) : (s.readGet).cmd = s.cmd := rfl
@[simp] theorem State.readGet_err (s : State) : (s.readGet).err = s.err := rfl
@[simp] theorem State.readGet_resp (s : State) : (s.readGet).resp = wordBytes s.dev := rfl
@[simp] theorem State.readGet_lastOp (s : State) : (s.readGet).lastOp = s.lastOp := rfl
@[simp] theorem State.readGet_inputs (s : State) : (s.readGet).inputs = s.inputs := rfl
@[simp] theorem State.readGet_initialised (s : State) : (s.readGet).initialised = s.initialised := rfl

@[simp] theorem State.readUnknown_mode (s : State) : (s.readUnknown).mode = s.mode := rfl
@[simp] theorem State.readUnknown_IN (s : State) : (s.readUnknown).IN = s.IN := rfl
@[simp] theorem State.readUnknown_OUT (s : State) : (s.readUnknown).OUT = s.OUT := rfl
@[simp] theorem State.readUnknown_reqReg (s : State) : (s.readUnknown).reqReg = s.reqReg := rfl
@[simp] theorem State.readUnknown_dev (s : State) : (s.readUnknown).dev = s.dev := rfl
@[simp] theorem State.readUnknown_cmd (s : State) : (s.readUnknown).cmd = s.cmd := rfl
@[simp] theorem State.readUnknown_err (s : State) : (s.readUnknown).err = .unknownRegister := rfl
@[simp] theorem State.readUnknown_resp (s : State) : (s.readUnknown).resp = wordBytes Config.unknownResp := rfl
@[simp] theorem State.readUnknown_lastOp (s : State) : (s.readUnknown).lastOp = s.lastOp := rfl
@[simp] theorem State.readUnknown_inputs (s : State) : (s.readUnknown).inputs = s.inputs := rfl
@[simp] theorem State.readUnknown_initialised (s : State) : (s.readUnknown).initialised = s.initialised := rfl

@[simp] theorem State.selectNone_mode (s : State) : (s.selectNone).mode = s.mode := rfl
@[simp] theorem State.selectNone_IN (s : State) : (s.selectNone).IN = s.IN := rfl
@[simp] theorem State.selectNone_OUT (s : State) : (s.selectNone).OUT = s.OUT := rfl
@[simp] theorem State.selectNone_reqReg (s : State) : (s.selectNone).reqReg = Config.regNone := rfl
@[simp] theorem State.selectNone_dev (s : State) : (s.selectNone).dev = s.dev := rfl
@[simp] theorem State.selectNone_cmd (s : State) : (s.selectNone).cmd = s.cmd := rfl
@[simp] theorem State.selectNone_err (s : State) : (s.selectNone).err = s.err := rfl
@[simp] theorem State.selectNone_resp (s : State) : (s.selectNone).resp = s.resp := rfl
@[simp] theorem State.selectNone_lastOp (s : State) : (s.selectNone).lastOp = s.lastOp := rfl
@[simp] theorem State.selectNone_inputs (s : State) : (s.selectNone).inputs = s.inputs := rfl
@[simp] theorem State.selectNone_initialised (s : State) : (s.selectNone).initialised = s.initialised := rfl

@[simp] theorem State.selectRegister_mode (r : Byte) (s : State) : (s.selectRegister r).mode = s.mode := rfl
@[simp] theorem State.selectRegister_IN (r : Byte) (s : State) : (s.selectRegister r).IN = s.IN := rfl
@[simp] theorem State.selectRegister_OUT (r : Byte) (s : State) : (s.selectRegister r).OUT = s.OUT := rfl
@[simp] theorem State.selectRegister_reqReg (r : Byte) (s : State) : (s.selectRegister r).reqReg = r := rfl
@[simp] theorem State.selectRegister_dev (r : Byte) (s : State) : (s.selectRegister r).dev = s.dev := rfl
@[simp] theorem State.selectRegister_cmd (r : Byte) (s : State) : (s.selectRegister r).cmd = s.cmd := rfl
@[simp] theorem State.selectRegister_err (r : Byte) (s : State) : (s.selectRegister r).err = s.err := rfl
@[simp] theorem State.selectRegister_resp (r : Byte) (s : State) : (s.selectRegister r).resp = s.resp := rfl
@[simp] theorem State.selectRegister_lastOp (r : Byte) (s : State) : (s.selectRegister r).lastOp = s.lastOp := rfl
@[simp] theorem State.selectRegister_inputs (r : Byte) (s : State) : (s.selectRegister r).inputs = s.inputs := rfl
@[simp] theorem State.selectRegister_initialised (r : Byte) (s : State) : (s.selectRegister r).initialised = s.initialised := rfl

@[simp] theorem State.loadResponse_mode (s : State) : (s.loadResponse).mode = s.mode := rfl
@[simp] theorem State.loadResponse_IN (s : State) : (s.loadResponse).IN = s.IN := rfl
@[simp] theorem State.loadResponse_OUT (s : State) : (s.loadResponse).OUT = s.OUT.load s.resp := rfl
@[simp] theorem State.loadResponse_reqReg (s : State) : (s.loadResponse).reqReg = s.reqReg := rfl
@[simp] theorem State.loadResponse_dev (s : State) : (s.loadResponse).dev = s.dev := rfl
@[simp] theorem State.loadResponse_cmd (s : State) : (s.loadResponse).cmd = s.cmd := rfl
@[simp] theorem State.loadResponse_err (s : State) : (s.loadResponse).err = s.err := rfl
@[simp] theorem State.loadResponse_resp (s : State) : (s.loadResponse).resp = s.resp := rfl
@[simp] theorem State.loadResponse_lastOp (s : State) : (s.loadResponse).lastOp = s.lastOp := rfl
@[simp] theorem State.loadResponse_inputs (s : State) : (s.loadResponse).inputs = s.inputs := rfl
@[simp] theorem State.loadResponse_initialised (s : State) : (s.loadResponse).initialised = s.initialised := rfl

@[simp] theorem State.onTxc_mode (s : State) : (s.onTxc).mode = s.mode := rfl
@[simp] theorem State.onTxc_IN (s : State) : (s.onTxc).IN = s.IN := rfl
@[simp] theorem State.onTxc_OUT (s : State) : (s.onTxc).OUT = Buffer.empty := rfl
@[simp] theorem State.onTxc_reqReg (s : State) : (s.onTxc).reqReg = s.reqReg := rfl
@[simp] theorem State.onTxc_dev (s : State) : (s.onTxc).dev = s.dev := rfl
@[simp] theorem State.onTxc_cmd (s : State) : (s.onTxc).cmd = s.cmd := rfl
@[simp] theorem State.onTxc_err (s : State) : (s.onTxc).err = s.err := rfl
@[simp] theorem State.onTxc_resp (s : State) : (s.onTxc).resp = s.resp := rfl
@[simp] theorem State.onTxc_lastOp (s : State) : (s.onTxc).lastOp = s.lastOp := rfl
@[simp] theorem State.onTxc_inputs (s : State) : (s.onTxc).inputs = s.inputs := rfl
@[simp] theorem State.onTxc_initialised (s : State) : (s.onTxc).initialised = s.initialised := rfl

@[simp] theorem State.onRxc_mode (s : State) : (s.onRxc).mode = s.mode := rfl
@[simp] theorem State.onRxc_IN (s : State) : (s.onRxc).IN = s.IN := rfl
@[simp] theorem State.onRxc_OUT (s : State) : (s.onRxc).OUT = s.OUT := rfl
@[simp] theorem State.onRxc_reqReg (s : State) : (s.onRxc).reqReg = s.reqReg := rfl
@[simp] theorem State.onRxc_dev (s : State) : (s.onRxc).dev = s.dev := rfl
@[simp] theorem State.onRxc_cmd (s : State) : (s.onRxc).cmd = s.cmd := rfl
@[simp] theorem State.onRxc_err (s : State) : (s.onRxc).err = s.err := rfl
@[simp] theorem State.onRxc_resp (s : State) : (s.onRxc).resp = s.resp := rfl
@[simp] theorem State.onRxc_lastOp (s : State) : (s.onRxc).lastOp = s.lastOp := rfl
@[simp] theorem State.onRxc_inputs (s : State) : (s.onRxc).inputs = s.inputs := rfl
@[simp] theorem State.onRxc_initialised (s : State) : (s.onRxc).initialised = s.initialised := rfl

@[simp] theorem State.takeBusFault_mode (s : State) : (s.takeBusFault).mode = .listening := rfl
@[simp] theorem State.takeBusFault_IN (s : State) : (s.takeBusFault).IN = Buffer.empty := rfl
@[simp] theorem State.takeBusFault_OUT (s : State) : (s.takeBusFault).OUT = Buffer.empty := rfl
@[simp] theorem State.takeBusFault_reqReg (s : State) : (s.takeBusFault).reqReg = s.reqReg := rfl
@[simp] theorem State.takeBusFault_dev (s : State) : (s.takeBusFault).dev = s.dev := rfl
@[simp] theorem State.takeBusFault_cmd (s : State) : (s.takeBusFault).cmd = .rearmListen := rfl
@[simp] theorem State.takeBusFault_err (s : State) : (s.takeBusFault).err = .busFault := rfl
@[simp] theorem State.takeBusFault_resp (s : State) : (s.takeBusFault).resp = s.resp := rfl
@[simp] theorem State.takeBusFault_lastOp (s : State) : (s.takeBusFault).lastOp = .rearmListen := rfl
@[simp] theorem State.takeBusFault_inputs (s : State) : (s.takeBusFault).inputs = s.inputs := rfl
@[simp] theorem State.takeBusFault_initialised (s : State) : (s.takeBusFault).initialised = s.initialised := rfl

@[simp] theorem State.onInit_mode (s : State) : (s.onInit).mode = .listening := rfl
@[simp] theorem State.onInit_IN (s : State) : (s.onInit).IN = Buffer.empty := rfl
@[simp] theorem State.onInit_OUT (s : State) : (s.onInit).OUT = Buffer.empty := rfl
@[simp] theorem State.onInit_reqReg (s : State) : (s.onInit).reqReg = Config.regNone := rfl
@[simp] theorem State.onInit_dev (s : State) : (s.onInit).dev = Config.initValue := rfl
@[simp] theorem State.onInit_cmd (s : State) : (s.onInit).cmd = .rearmListen := rfl
@[simp] theorem State.onInit_err (s : State) : (s.onInit).err = s.err := rfl
@[simp] theorem State.onInit_resp (s : State) : (s.onInit).resp = s.resp := rfl
@[simp] theorem State.onInit_lastOp (s : State) : (s.onInit).lastOp = .rearmListen := rfl
@[simp] theorem State.onInit_inputs (s : State) : (s.onInit).inputs = s.inputs := rfl
@[simp] theorem State.onInit_initialised (s : State) : (s.onInit).initialised = true := rfl

end Sys2Proof.Machine
end

