-- ==== Sys2Proof/Laws/Dispatcher.lean ====
section
/-! SUPPORT. What the Register Dispatcher's two operations can do, said once (41_register_dispatcher.md). -/

namespace Sys2Proof.Machine

@[simp] theorem wordBytes_unknownResp : wordBytes 0xFFFF#16 = [0xFF#8, 0xFF#8] := by decide

/-- The two bytes of a value put together again (20_memory.md R42). -/
theorem msb_append_lsb (v : Word) : msb v ++ lsb v = v := by
  unfold msb lsb
  ext i hi
  simp only [BitVec.getElem_append, BitVec.getElem_extractLsb']
  grind

@[simp] theorem length_wordBytes (v : Word) : (wordBytes v).length = 2 := rfl

/-- `BuildResponse` writes no state: only the response and the label (R141). -/
theorem buildResponse_eq (id : Byte) (s : State) :
    s.buildResponse id =
      { s with
        resp := (if id = Config.regGet then wordBytes s.dev else wordBytes Config.unknownResp)
        err := if id = Config.regGet then s.err else .unknownRegister } := by
  unfold State.buildResponse
  split <;> rfl

/-- `ApplyWrite` writes RequestedRegister, DeviceState and the label, nothing else (R140, R144). -/
theorem applyWriteWith_eq (sel : Bool) (n : Nat) (s : State) :
    s.applyWriteWith sel n =
      { s with
        reqReg := (if n = 0 then Config.regNone else if n = 1 ∨ sel = true then s.IN.read 0 else s.reqReg)
        dev := (if 2 ≤ n ∧ s.IN.read 0 = Config.regSet then payload n s.IN else s.dev)
        err := if 2 ≤ n ∧ s.IN.read 0 ≠ Config.regSet then .unknownRegister else s.err } := by
  unfold State.applyWriteWith
  split
  · simp [*, State.selectNone]
  · split
    · simp [*, State.selectRegister]
    · have h2 : 2 ≤ n := by omega
      split
      · cases sel <;> simp [*, State.writeSet, State.selectAfterWrite, State.selectRegister]
      · rename_i hr
        have hr' : s.IN.read 0 ≠ Config.regSet := hr
        cases sel <;> simp_all [State.writeUnknown, State.selectAfterWrite, State.selectRegister, State.raise]

end Sys2Proof.Machine
end

