-- ==== Sys2Proof/Laws/Exec.lean ====
section
/-! SUPPORT. What executing an instruction can do, said once: the frame all instructions run in, and each event
handler written as one update of the state it starts from. -/

namespace Sys2Proof.Machine

/-- On an initialised core an instruction completes. -/
theorem handle_of_initialised {s : State} (h : s.initialised = true) (f : State → State) :
    s.handle f = .next (f s.beginStep) := by
  simp [State.handle, h]

/-- An instruction that completes ran its handler on an initialised core. -/
theorem handle_next {s t : State} {f : State → State} (h : s.handle f = .next t) :
    s.initialised = true ∧ t = f s.beginStep := by
  unfold State.handle at h
  split at h
  · exact ⟨‹_›, (Host.Outcome.next.inj h).symm⟩
  · cases h

/-- The handler of each instruction, on the state with its outputs cleared. -/
def handlerOf : Instr → State → State
  | .init => State.onInit
  | .addrR => State.onAddrR
  | .addrW => State.onAddrW
  | .rx b => State.onRx b
  | .txc => State.onTxc
  | .rxc => State.onRxc
  | .stop => State.onStop
  | .err => State.takeBusFault
  | .readGet => State.readGet
  | .readUnknown _ => State.readUnknown
  | .select r => State.selectRegister r
  | .writeSet hi rest => State.writeSet Config.setSelects (payloadOf hi rest.head?)
  | .writeUnknown r _ _ => State.writeUnknown Config.setSelects r
  | .selectNone => State.selectNone
  | .noCommand => State.emit .none
  | .beginReceive off => State.emit (.beginReceive off)
  | .beginTransmit => State.emit .beginTransmit
  | .rearmListen => State.emit .rearmListen

/-- Executing an instruction on an initialised core is running its handler. -/
theorem exec_of_initialised {s : State} (h : s.initialised = true) (i : Instr) :
    exec i s = .next (handlerOf i s.beginStep) := by
  cases i <;> first | rfl | exact handle_of_initialised h _

/-- Executing `INIT` is running its handler, on any core. -/
theorem exec_init (s : State) : exec .init s = .next s.beginStep.onInit := rfl

/-- An instruction that completes is `INIT` or ran on an initialised core, and its next state is its handler's. -/
theorem exec_next {i : Instr} {s t : State} (h : exec i s = .next t) :
    (i = .init ∨ s.initialised = true) ∧ t = handlerOf i s.beginStep := by
  cases i <;> first | exact ⟨.inl rfl, (Host.Outcome.next.inj h).symm⟩ | exact ⟨.inr (handle_next h).1, (handle_next h).2⟩

/-- An instruction never ends in a fault. -/
theorem exec_ne_fault (i : Instr) (s : State) (r : Fault) : exec i s ≠ .fault r := nomatch r

theorem onAddrR_eq (s : State) :
    s.onAddrR =
      { s with
        mode := .transmitting
        OUT := s.OUT.load (s.buildResponse s.reqReg).resp
        reqReg := Config.regNone
        cmd := .beginTransmit
        lastOp := .beginTransmit
        resp := (s.buildResponse s.reqReg).resp
        err := (s.buildResponse s.reqReg).err } := by
  simp [State.onAddrR, buildResponse_eq, State.loadResponse, State.emit]

theorem onAddrW_of_lt {s : State} (h : s.IN.count < Config.cap) :
    s.onAddrW = { s with mode := .receiving, cmd := receiveAt s.IN.count, lastOp := receiveAt s.IN.count } := by
  simp only [State.onAddrW, if_pos h]
  rfl

theorem onAddrW_of_ge {s : State} (h : Config.cap ≤ s.IN.count) :
    s.onAddrW = { s with mode := .receiving, err := .bufferOverflow } := by
  simp only [State.onAddrW, if_neg (Nat.not_lt.mpr h)]
  rfl

theorem onRx_of_ge {s : State} (b : Byte) (h : Config.cap ≤ s.IN.count) : s.onRx b = { s with err := .bufferOverflow } := by
  simp [State.onRx, Buffer.append_eq_none h, State.raise]

theorem onRx_of_some {s : State} {b : Byte} {B : Buffer} (h : s.IN.append b = some B) :
    s.onRx b =
      { s with
        IN := B
        cmd := (if s.mode = .receiving ∧ B.count < Config.cap then receiveAt B.count else s.cmd)
        lastOp := if s.mode = .receiving ∧ B.count < Config.cap then receiveAt B.count else s.lastOp } := by
  simp only [State.onRx, h, State.rearmReceive]
  split <;> rfl

theorem onStop_eq (s : State) :
    s.onStop =
      { s with
        mode := .listening
        IN := Buffer.empty
        reqReg := (if s.IN.count = 0 then Config.regNone else s.IN.read 0)
        dev := (if 2 ≤ s.IN.count ∧ s.IN.read 0 = Config.regSet then payload s.IN.count s.IN else s.dev)
        err := (if 2 ≤ s.IN.count ∧ s.IN.read 0 ≠ Config.regSet then .unknownRegister else s.err)
        cmd := .rearmListen
        lastOp := .rearmListen } := by
  simp [State.onStop, State.applyWrite, applyWriteWith_eq, State.emit]

@[simp] theorem writeSet_true (v : Word) (s : State) :
    s.writeSet true v = { s with dev := v, reqReg := Config.regSet } := rfl

@[simp] theorem writeUnknown_true (id : Byte) (s : State) :
    s.writeUnknown true id = { s with reqReg := id, err := .unknownRegister } := rfl

/-- No handler reads or writes what waits to be presented. -/
theorem handlerOf_take (i : Instr) (s : State) (q : List Input) :
    handlerOf i (s.take q) = (handlerOf i s).take q := by
  cases i with
  | addrR => simp only [handlerOf, onAddrR_eq, buildResponse_eq]; rfl
  | addrW =>
    simp only [handlerOf]
    rcases Nat.lt_or_ge s.IN.count Config.cap with h | h
    · rw [onAddrW_of_lt h, onAddrW_of_lt (s := s.take q) h]; rfl
    · rw [onAddrW_of_ge h, onAddrW_of_ge (s := s.take q) h]; rfl
  | rx b =>
    simp only [handlerOf]
    rcases Nat.lt_or_ge s.IN.count Config.cap with h | h
    · rw [onRx_of_some (Buffer.append_eq_some h), onRx_of_some (s := s.take q) (Buffer.append_eq_some h)]; rfl
    · rw [onRx_of_ge b h, onRx_of_ge (s := s.take q) b h]; rfl
  | stop => simp only [handlerOf, onStop_eq]; rfl
  | _ => rfl

/-- No instruction changes what waits to be presented. -/
theorem handlerOf_inputs (i : Instr) (s : State) : (handlerOf i s).inputs = s.inputs := by
  have h := congrArg State.inputs (handlerOf_take i s s.inputs)
  exact h.symm ▸ rfl

/-- The meaning of an instruction does not depend on what waits to be presented. -/
theorem exec_take {i : Instr} {s t : State} (q : List Input) (h : exec i s = .next t) :
    exec i (s.take q) = .next (t.take q) := by
  obtain ⟨hi, rfl⟩ := exec_next h
  rw [← handlerOf_take]
  rcases hi with rfl | hi
  · rfl
  · exact exec_of_initialised (s := s.take q) hi i

/-- An initialised core stays initialised. -/
theorem handlerOf_initialised (i : Instr) {s : State} (h : s.initialised = true) :
    (handlerOf i s).initialised = true := by
  cases i with
  | addrR => simpa [handlerOf, onAddrR_eq] using h
  | addrW =>
    rcases Nat.lt_or_ge s.IN.count Config.cap with hc | hc
    · simpa [handlerOf, onAddrW_of_lt hc] using h
    · simpa [handlerOf, onAddrW_of_ge hc] using h
  | rx b =>
    rcases Nat.lt_or_ge s.IN.count Config.cap with hc | hc
    · simpa [handlerOf, onRx_of_some (Buffer.append_eq_some hc)] using h
    · simpa [handlerOf, onRx_of_ge b hc] using h
  | stop => simpa [handlerOf, onStop_eq] using h
  | init => rfl
  | noCommand | beginReceive | beginTransmit | rearmListen => simpa [handlerOf] using h
  | _ => exact h

end Sys2Proof.Machine
end

