-- ==== Sys2Proof/Laws/PerInstr.lean ====
section
/-! SUPPORT. The statements made per instruction: each constructor's encoding decodes back to it. -/

namespace Sys2Proof.Laws.RoundTrip

/-- A well-formed instruction is what its encoding decodes to (30_encoding.md sections 2 and 3). -/
def Statement (i : Instr) : Prop := i.wf = true → decode (encode i) = .ok i

theorem init : Statement .init := fun _ => by decide
theorem addrR : Statement .addrR := fun _ => by decide
theorem addrW : Statement .addrW := fun _ => by decide
theorem rx (b : Byte) : Statement (.rx b) := fun _ => by
  simp [encode, decode, decodeEvent, decodeReceived]
theorem txc : Statement .txc := fun _ => by decide
theorem rxc : Statement .rxc := fun _ => by decide
theorem stop : Statement .stop := fun _ => by decide
theorem err : Statement .err := fun _ => by decide
theorem readGet : Statement .readGet := fun _ => by decide
theorem readUnknown (r : Byte) : Statement (.readUnknown r) := fun h => by
  simp_all [encode, decode, decodeRead, Instr.wf]
theorem select (r : Byte) : Statement (.select r) := fun _ => rfl
theorem writeSet (hi : Byte) (rest : List Byte) : Statement (.writeSet hi rest) := fun h => by
  have h' : fitsBuffer (rest.length + 2) = true := h
  simp [encode, decode, decodeWrite, h']
theorem writeUnknown (r hi : Byte) (rest : List Byte) : Statement (.writeUnknown r hi rest) := fun h => by
  obtain ⟨h1, h2⟩ := (Bool.and_eq_true _ _).mp h
  have h3 : r ≠ Config.regSet := by simpa using h1
  simp only [encode, decode, decodeWrite, if_pos h2, if_neg h3]
theorem selectNone : Statement .selectNone := fun _ => rfl
theorem noCommand : Statement .noCommand := fun _ => by decide
theorem beginReceive (off : Byte) : Statement (.beginReceive off) := fun h => by
  have h' : off.toNat < Config.cap := of_decide_eq_true h
  simp only [encode, decode, decodeCommand_beginReceive, if_pos h']
theorem beginTransmit : Statement .beginTransmit := fun _ => by decide
theorem rearmListen : Statement .rearmListen := fun _ => by decide

end Sys2Proof.Laws.RoundTrip
end

