-- ==== Sys2Proof/Tests/Slice0.lean ====
section
/-! SUPPORT. Tests of the model. Expected results are the vectors of 95_test_vectors.md (named in each comment) or
words written out bit by bit from 30_encoding.md; then one witness for every statement with hypotheses. -/

namespace Sys2Proof.Tests

open Sys2Proof.Machine

/-- The contents that list `bs` from index `i` on, written without the model's own operations. -/
def cells (i : Nat) : List Byte → Memory
  | [] => []
  | b :: bs => if b = 0x00#8 then cells (i + 1) bs else (i, b) :: cells (i + 1) bs

/-- A buffer whose valid prefix is `bs`. -/
def buf (bs : List Byte) : Buffer := ⟨bs.length, cells 0 bs⟩

/-- The state `{m, IN, OUT, rr, dev}` of 95_test_vectors.md, nothing presented, outputs empty. -/
def st (m : Mode) (inb outb : List Byte) (rr : Byte) (dev : Word) : State :=
  { mode := m, IN := buf inb, OUT := buf outb, reqReg := rr, dev := dev, cmd := .none, err := .none, resp := [],
    lastOp := .rearmListen, inputs := [], initialised := true }

/-- One vector: the state after the input, its outputs and environment set aside, the command word, the label. -/
def vec (s : State) (x : Input) : Option (State × Word × Nat) :=
  match step (s.present x) with
  | .next t => some ({ t with cmd := .none, err := .none, resp := [], lastOp := .rearmListen }, t.cmd.word, t.err.code)
  | .fault _ => none
  | .refused _ => none

/-! ### WellFormed refuses an ill-formed term for each check -/

theorem test_wf_readUnknown_get : (Instr.readUnknown 0x08#8).wf = false := by decide
theorem test_wf_writeUnknown_set : (Instr.writeUnknown 0x09#8 0x00#8 []).wf = false := by decide
theorem test_wf_writeUnknown_long : (Instr.writeUnknown 0x55#8 1#8 [2#8, 3#8, 4#8, 5#8]).wf = false := by decide
theorem test_wf_writeSet_long : (Instr.writeSet 1#8 [2#8, 3#8, 4#8, 5#8]).wf = false := by decide
theorem test_wf_beginReceive_cap : (Instr.beginReceive 0x05#8).wf = false := by decide

/-! ### Decoding: words written out bit by bit from 30_encoding.md R65, R66, R71 and 41_register_dispatcher.md -/

theorem test_decode_events :
    decodeEvent 0b1111000000000000#16 = .ok .init ∧ decodeEvent 0b0001000100000000#16 = .ok .addrR ∧
    decodeEvent 0b0001000000000000#16 = .ok .addrW ∧ decodeEvent 0b0010000000001001#16 = .ok (.rx 0x09#8) ∧
    decodeEvent 0b0011000100000000#16 = .ok .txc ∧ decodeEvent 0b0011000000000000#16 = .ok .rxc ∧
    decodeEvent 0b0100000000000000#16 = .ok .stop ∧ decodeEvent 0b0101000000000000#16 = .ok .err := by decide

theorem test_decode_commands :
    decodeCommand 0b0000000000000000#16 = .ok .noCommand ∧
    decodeCommand 0b0100000100000011#16 = .ok (.beginReceive 0x03#8) ∧
    decodeCommand 0b1011001000000000#16 = .ok .beginTransmit ∧
    decodeCommand 0b1100000000000000#16 = .ok .rearmListen := by decide

theorem test_decode_dispatcher :
    decode (.read 0b00001000#8) = .ok .readGet ∧ decode (.read 0b00000000#8) = .ok (.readUnknown 0x00#8) ∧
    decode (.write [0b01010101#8]) = .ok (.select 0x55#8) ∧
    decode (.write [0b00001001#8, 0x12#8]) = .ok (.writeSet 0x12#8 []) ∧
    decode (.write [0b00001000#8, 0x03#8, 0xE8#8]) = .ok (.writeUnknown 0x08#8 0x03#8 [0xE8#8]) ∧
    decode (.write []) = .ok .selectNone := by decide

/-- The refused words of 95_test_vectors.md section 2.1, each with the reason named there. -/
theorem test_decode_reserved :
    decodeEvent 0x0000#16 = .error .reservedKind ∧ decodeEvent 0x6000#16 = .error .reservedKind ∧
    decodeEvent 0xE000#16 = .error .reservedKind ∧ decodeEvent 0x1200#16 = .error .reservedBits ∧
    decodeEvent 0x1E00#16 = .error .reservedBits ∧ decodeEvent 0x2100#16 = .error .strayDirection ∧
    decodeEvent 0x3001#16 = .error .strayData ∧ decodeEvent 0x1101#16 = .error .strayData ∧
    decodeEvent 0x4100#16 = .error .strayDirection ∧ decodeEvent 0x4001#16 = .error .strayData ∧
    decodeEvent 0x5100#16 = .error .strayDirection ∧ decodeEvent 0xF100#16 = .error .strayDirection ∧
    decodeEvent 0xF0FF#16 = .error .strayData := by decide

/-- 30_encoding.md R73: `0x4105` never appears; a longer write than CAP is given to nobody. -/
theorem test_decode_rejected :
    decode (.command 0x4105#16) = .error .offsetBeyondCapacity ∧ decode (.command 0x9200#16) = .error .notACommandWord ∧
    decode (.write [1#8, 2#8, 3#8, 4#8, 5#8, 6#8]) = .error .writeTooLong := by decide

theorem test_table_words :
    decodeTableWord 16 0xF000 = some .init ∧ decodeTableWord 16 0x20BB = some (.rx 0xBB#8) ∧
    decodeTableWord 16 0xB200 = some .beginTransmit ∧ decodeTableWord 8 0x08 = some .readGet ∧
    decodeTableWord 8 0x09 = some (.writeSet 0x00#8 [0x00#8]) ∧ decodeTableWord 8 0x55 = some (.select 0x55#8) ∧
    decodeTableWord 0 0 = some .selectNone ∧ decodeTableWord 16 0x6000 = none := by decide

/-- Every kind of table word runs as the first instruction after reset. -/
theorem test_first_after_reset :
    step (State.reset.withFetchWord 16 0x2055) = exec (.rx 0x55#8) State.reset ∧
    step (State.reset.withFetchWord 16 0xC000) = exec .rearmListen State.reset ∧
    step (State.reset.withFetchWord 8 0x09) = exec (.writeSet 0x00#8 [0x00#8]) State.reset ∧
    step (State.reset.withFetchWord 0 0) = exec .selectNone State.reset := ⟨rfl, rfl, rfl, rfl⟩

/-- 30_encoding.md R75. -/
theorem test_assembler :
    asmLine "RX 0xE8 ; high byte".toList = some (.rx 0xE8#8) ∧ asmLine "ADDR R".toList = some .addrR ∧
    asmText (.rx 0x09#8) = some "RX 0x09".toList := by decide

/-! ### Vectors of 95_test_vectors.md -/

/-- V-INIT-2. -/
theorem test_V_INIT_2 : vec (st .receiving [0x09#8, 0x03#8] [] 0x08#8 0x1234#16) (.event 0xF000#16) =
    some (st .listening [] [] 0x00#8 0x0DD6#16, 0xC000#16, 0) := by decide

/-- V-INIT-3. -/
theorem test_V_INIT_3 : vec (st .transmitting [] [0x12#8, 0x34#8] 0x00#8 0xFFFF#16) (.event 0xF000#16) =
    some (st .listening [] [] 0x00#8 0x0DD6#16, 0xC000#16, 0) := by decide

/-- V-AR-1. -/
theorem test_V_AR_1 : vec (st .listening [] [] 0x08#8 0x0DD6#16) (.event 0x1100#16) =
    some (st .transmitting [] [0x0D#8, 0xD6#8] 0x00#8 0x0DD6#16, 0xB200#16, 0) := by decide

/-- V-AR-6. -/
theorem test_V_AR_6 : vec (st .receiving [0x08#8] [] 0x00#8 0x0DD6#16) (.event 0x1100#16) =
    some (st .transmitting [0x08#8] [0xFF#8, 0xFF#8] 0x00#8 0x0DD6#16, 0xB200#16, 2) := by decide

/-- V-AW-2. -/
theorem test_V_AW_2 : vec (st .receiving [0x09#8, 0x03#8] [] 0x00#8 0x0DD6#16) (.event 0x1000#16) =
    some (st .receiving [0x09#8, 0x03#8] [] 0x00#8 0x0DD6#16, 0x4102#16, 0) := by decide

/-- V-AW-3. -/
theorem test_V_AW_3 : vec (st .receiving [0x01#8, 0x02#8, 0x03#8, 0x04#8, 0x05#8] [] 0x00#8 0x0DD6#16) (.event 0x1000#16) =
    some (st .receiving [0x01#8, 0x02#8, 0x03#8, 0x04#8, 0x05#8] [] 0x00#8 0x0DD6#16, 0x0000#16, 1) := by decide

/-- V-RX-3. -/
theorem test_V_RX_3 : vec (st .receiving [0x09#8, 0x03#8, 0xE8#8] [] 0x00#8 0x0DD6#16) (.event 0x2000#16) =
    some (st .receiving [0x09#8, 0x03#8, 0xE8#8, 0x00#8] [] 0x00#8 0x0DD6#16, 0x4104#16, 0) := by decide

/-- V-RX-8. -/
theorem test_V_RX_8 : vec (st .listening [0x01#8, 0x02#8, 0x03#8, 0x04#8, 0x05#8] [] 0x00#8 0x0DD6#16) (.event 0x2066#16) =
    some (st .listening [0x01#8, 0x02#8, 0x03#8, 0x04#8, 0x05#8] [] 0x00#8 0x0DD6#16, 0x0000#16, 1) := by decide

/-- V-TXC-1. -/
theorem test_V_TXC_1 : vec (st .transmitting [] [0x0D#8, 0xD6#8] 0x00#8 0x0DD6#16) (.event 0x3100#16) =
    some (st .transmitting [] [] 0x00#8 0x0DD6#16, 0x0000#16, 0) := by decide

/-- V-RXC-1. -/
theorem test_V_RXC_1 : vec (st .receiving [0x09#8, 0x03#8] [] 0x08#8 0x0DD6#16) (.event 0x3000#16) =
    some (st .receiving [0x09#8, 0x03#8] [] 0x08#8 0x0DD6#16, 0x0000#16, 0) := by decide

/-- V-ST-4. -/
theorem test_V_ST_4 : vec (st .receiving [0x09#8, 0x12#8] [] 0x00#8 0x0DD6#16) (.event 0x4000#16) =
    some (st .listening [] [] 0x09#8 0x1200#16, 0xC000#16, 0) := by decide

/-- V-ST-7. -/
theorem test_V_ST_7 : vec (st .receiving [0x08#8, 0x03#8, 0xE8#8] [] 0x00#8 0x0DD6#16) (.event 0x4000#16) =
    some (st .listening [] [] 0x08#8 0x0DD6#16, 0xC000#16, 2) := by decide

/-- V-ERR-1. -/
theorem test_V_ERR_1 : vec (st .receiving [0x09#8, 0x03#8] [] 0x08#8 0x0DD6#16) (.event 0x5000#16) =
    some (st .listening [] [] 0x08#8 0x0DD6#16, 0xC000#16, 3) := by decide

/-- V-BR-4 and V-BR-5: the read rows' responses and labels. -/
theorem test_V_BR :
    (match exec .readGet (st .listening [] [] 0x00#8 0x8001#16) with | .next t => some (t.resp, t.err) | _ => none) =
      some ([0x80#8, 0x01#8], .none) ∧
    (match exec (.readUnknown 0x09#8) (st .listening [] [] 0x00#8 0x03E8#16) with | .next t => some (t.resp, t.err) | _ => none) =
      some ([0xFF#8, 0xFF#8], .unknownRegister) := by decide

/-- The state 95_test_vectors.md section 4.2 starts each row from. -/
def apply0 : State := st .listening [] [] 0x42#8 0x0DD6#16

/-- V-AP-1, V-AP-4, V-AP-5, V-AP-8, V-AP-9: the write rows. -/
theorem test_V_AP :
    vec apply0 (.write []) = some (st .listening [] [] 0x00#8 0x0DD6#16, 0x0000#16, 0) ∧
    vec apply0 (.write [0x77#8]) = some (st .listening [] [] 0x77#8 0x0DD6#16, 0x0000#16, 0) ∧
    vec apply0 (.write [0x09#8, 0x12#8]) = some (st .listening [] [] 0x09#8 0x1200#16, 0x0000#16, 0) ∧
    vec apply0 (.write [0x09#8, 0x00#8, 0x01#8, 0xFF#8, 0xFF#8]) =
      some (st .listening [] [] 0x09#8 0x0001#16, 0x0000#16, 0) ∧
    vec apply0 (.write [0x08#8, 0x03#8, 0xE8#8]) = some (st .listening [] [] 0x08#8 0x0DD6#16, 0x0000#16, 2) := by decide

/-- 95_test_vectors.md section 4.2: with SET_SELECTS = false a write of two or more bytes keeps `rr = 0x42`. -/
theorem test_V_AP_uncoupled :
    let s := (st .listening [0x09#8, 0x03#8, 0xE8#8] [] 0x42#8 0x0DD6#16).applyWriteWith false 3
    s.reqReg = 0x42#8 ∧ s.dev = 0x03E8#16 := by decide

/-- 95_test_vectors.md section 2.2, the command words. -/
theorem test_command_outputs :
    (vec apply0 (.command 0x4104#16)).map Prod.snd = some (0x4104#16, 0) ∧
    (vec apply0 (.command 0xB200#16)).map Prod.snd = some (0xB200#16, 0) ∧
    (vec apply0 (.command 0x0000#16)).map Prod.snd = some (0x0000#16, 0) ∧
    (vec apply0 (.command 0xC000#16)).map Prod.snd = some (0xC000#16, 0) := by decide

/-- V-BUF-2, V-BUF-3, V-BUF-4, V-BUF-6, V-BUF-8: the buffer operations. -/
theorem test_V_BUF :
    (buf [1#8, 2#8, 3#8, 4#8]).append 0xAA#8 = some (buf [1#8, 2#8, 3#8, 4#8, 0xAA#8]) ∧
    (buf [0x09#8, 0x03#8, 0xE8#8, 0x11#8, 0x22#8]).append 0x33#8 = none ∧
    (buf [0x09#8, 0x12#8]).readAll = [0x09#8, 0x12#8] ∧ (buf [0x09#8, 0x03#8, 0xE8#8]).resetBuf = buf [] ∧
    (buf [0xFF#8, 0xFF#8]).load [0x0D#8, 0xD6#8] = buf [0x0D#8, 0xD6#8] := by decide

/-- V-RST-2: any event other than INIT before initialization is refused. -/
theorem test_V_RST_2 :
    exec .stop { State.reset with initialised := false } = .refused .notInitialised := rfl

/-- 10_state.md R21 (decision D22) and 60_exceptions.md R200. -/
theorem test_codes :
    [Mode.listening, Mode.receiving, Mode.transmitting].map Mode.code = [0, 1, 2] ∧
    [ErrLabel.none, ErrLabel.bufferOverflow, ErrLabel.unknownRegister, ErrLabel.busFault].map ErrLabel.code = [0, 1, 2, 3] := by
  decide

/-! ### A witness for every statement with hypotheses -/

/-- A state of a SET in progress. -/
def sSet : State := st .receiving [0x09#8, 0x12#8, 0x34#8] [] 0x00#8 0x0DD6#16

/-- A full inbound buffer. -/
def sFull : State := st .receiving [1#8, 2#8, 3#8, 4#8, 5#8] [] 0x00#8 0x0DD6#16

/-- One byte of room left. -/
def sFour : State := st .receiving [1#8, 2#8, 3#8, 4#8] [] 0x00#8 0x0DD6#16

theorem sSet_inv : sSet.Inv := by constructor <;> decide
theorem sFull_inv : sFull.Inv := by constructor <;> decide

theorem witness_wf_boundaries :
    (Instr.beginReceive 0x04#8).wf = true ∧ (Instr.readUnknown 0x09#8).wf = true ∧
    (Instr.writeSet 0xFF#8 [1#8, 2#8, 3#8]).wf = true ∧ (Instr.writeUnknown 0x08#8 0xFF#8 [1#8, 2#8, 3#8]).wf = true := by decide

theorem witness_decodes : ∃ x i, decode x = .ok i := ⟨.event 0x20FF#16, .rx 0xFF#8, by decide⟩

theorem witness_reserved : ∃ (s : State) (rest : List Input) (e : DecodeError),
    s.inputs = .event 0x6000#16 :: rest ∧ decodeEvent 0x6000#16 = .error e :=
  ⟨{ sSet with inputs := [.event 0x6000#16] }, [], .reservedKind, rfl, by decide⟩

/-- A word for each way a word is reserved, at the ends of the ranges, and the accepted ones beside them. -/
theorem witness_reserved_boundaries :
    ([0x0000#16, 0x6000#16, 0xE000#16, 0x1200#16, 0x2100#16, 0x3001#16].all fun w => !(decodeEvent w).isOk) = true ∧
    ([0x1000#16, 0x5000#16, 0xF000#16, 0x20FF#16, 0x3100#16].all fun w => (decodeEvent w).isOk) = true := by decide

theorem witness_isEvent : ∃ i : Instr, i.isEvent = true ∧ ∀ b, i ≠ .rx b := ⟨.addrR, by decide, fun _ h => by cases h⟩

theorem witness_step_decodes : ∃ (s : State) (x : Input) (rest : List Input) (i : Instr),
    s.inputs = x :: rest ∧ decode x = .ok i :=
  ⟨sSet.present (.event 0x4000#16), .event 0x4000#16, [], .stop, rfl, by decide⟩

theorem witness_step_refuses : ∃ (s : State) (x : Input) (rest : List Input) (e : DecodeError),
    s.inputs = x :: rest ∧ decode x = .error e :=
  ⟨sSet.present (.command 0x4105#16), .command 0x4105#16, [], .offsetBeyondCapacity, rfl, by decide⟩

theorem witness_nothing_presented : State.reset.inputs = [] := rfl

theorem witness_queue : ∃ (is : List Instr) (s t : State), (∀ i ∈ is, i.wf = true) ∧ runAll is s = .next t ∧ is ≠ [] :=
  ⟨[.addrW, .rx 0x08#8], State.reset, _, by decide, rfl, by simp⟩

theorem witness_sequence : sSet.initialised = true ∧ ∀ i ∈ [Instr.txc, Instr.stop], i.wf = true := by decide

theorem witness_uninitialised : ∃ (s : State) (i : Instr), s.initialised = false ∧ i ≠ .init :=
  ⟨{ State.reset with initialised := false }, .stop, rfl, by simp⟩

theorem witness_invariant_step : ∃ s t : State, s.Inv ∧ step s = .next t ∧ t ≠ s :=
  ⟨sSet.present (.event 0x4000#16), _, by constructor <;> decide, rfl, by decide⟩

theorem witness_counts_step : ∃ s t : State, s.IN.count ≤ Config.cap ∧ s.OUT.count ≤ Config.cap ∧ step s = .next t :=
  ⟨sFour.present (.event 0x20FF#16), _, by decide, by decide, rfl⟩

theorem witness_dead_bytes : sFull.Inv ∧ sFull.IN.count ≤ 5 ∧ sFull.OUT.count ≤ 0 := ⟨sFull_inv, by decide, by decide⟩

theorem witness_append_room : (buf [1#8, 2#8, 3#8, 4#8]).count < Config.cap ∧ (buf [1#8, 2#8, 3#8, 4#8]).data.wf = true := by
  decide

theorem witness_append_full : sFull.IN.count = Config.cap := rfl

theorem witness_append_rejected : ∃ t, sFull.IN.append 0x66#8 = none ∧ exec (.rx 0x66#8) sFull = .next t := ⟨_, rfl, rfl⟩

theorem witness_load : [1#8, 2#8, 3#8, 4#8, (5#8 : Byte)].length ≤ Config.cap := by decide

theorem witness_initialised : sSet.initialised = true := rfl

theorem witness_read_worked_example : ∃ s : State, s.initialised = true ∧ s.reqReg = 0x08#8 ∧ s.dev = 3542#16 :=
  ⟨st .listening [] [] 0x08#8 0x0DD6#16, rfl, rfl, rfl⟩

theorem witness_write_match_room : sFour.initialised = true ∧ sFour.IN.count < Config.cap := by decide

theorem witness_rejected_full : sFull.initialised = true ∧ sFull.IN.count = Config.cap := by decide

theorem witness_write_match_full : sFull.initialised = true ∧ Config.cap ≤ sFull.IN.count := by decide

theorem witness_received : sFour.initialised = true ∧ sFour.IN.data.wf = true ∧ sFour.IN.count < Config.cap := by decide

theorem witness_received_beyond : ∃ t, sFull.IN.count ≤ Config.cap ∧ exec (.rx 0x66#8) sFull = .next t ∧ Config.cap ≤ 5 :=
  ⟨_, by decide, rfl, by decide⟩

theorem witness_stop_none : ∃ s : State, s.initialised = true ∧ s.IN.count ≤ 1 ∧ s.IN.count = 0 :=
  ⟨State.reset, rfl, by decide, rfl⟩

theorem witness_stop_some : sFull.initialised = true ∧ 1 ≤ sFull.IN.count := by decide

theorem witness_stop_one : ∃ s : State, s.initialised = true ∧ s.IN.count = 1 ∧ s.IN.read 0 ≠ 0x08#8 :=
  ⟨st .receiving [0x55#8] [] 0x00#8 0x0DD6#16, rfl, rfl, by decide⟩

theorem witness_stop_two : ∃ s : State, s.initialised = true ∧ s.IN.count = 2 ∧ s.IN.read 0 = 0x09#8 :=
  ⟨st .receiving [0x09#8, 0x12#8] [] 0x00#8 0x0DD6#16, rfl, rfl, rfl⟩

theorem witness_stop_three : sSet.initialised = true ∧ 3 ≤ sSet.IN.count ∧ sSet.IN.read 0 = 0x09#8 := by decide

theorem witness_exec_next : ∃ (i : Instr) (s t : State), i.wf = true ∧ i.isEvent = true ∧ exec i s = .next t ∧ t.dev ≠ s.dev :=
  ⟨.stop, sSet, _, by decide, by decide, rfl, by decide⟩

theorem witness_bus_error : ∃ t, exec .err sSet = .next t := ⟨_, rfl⟩

theorem witness_write_events : (∃ t, exec .addrW sFour = .next t) ∧ ∃ t, exec (.rx 0x07#8) sFour = .next t := ⟨⟨_, rfl⟩, ⟨_, rfl⟩⟩

theorem witness_same_device : ∃ s s' : State, s.dev = s'.dev ∧ s.IN = s'.IN ∧ s ≠ s' :=
  ⟨sSet, { sSet with mode := .listening }, rfl, rfl, by decide⟩

theorem witness_dispatcher_writes_dev : (sSet.applyWrite sSet.IN.count).dev ≠ sSet.dev := by decide

theorem witness_read_rows : sSet.initialised = true ∧ (0x09#8 : Byte) ≠ 0x08#8 := by decide

theorem witness_write_rows : sSet.initialised = true ∧ (0x08#8 : Byte) ≠ 0x09#8 := by decide

theorem witness_dispatcher_row : sFull.initialised = true ∧ sFull.IN.count ≤ Config.cap := by decide

/-- Two buffers of five bytes that agree on the first three only. -/
theorem witness_ignored_bytes : ∃ B : Buffer, B.count = sFull.IN.count ∧
    (∀ i, i < 3 → i < sFull.IN.count → B.read i = sFull.IN.read i) ∧ B ≠ sFull.IN :=
  ⟨buf [1#8, 2#8, 3#8, 9#8, 9#8], rfl, by decide, by decide⟩

theorem witness_coupling : ∃ n : Nat, 2 ≤ n ∧ n ≤ Config.cap := ⟨2, by decide⟩

theorem witness_command_offset : sSet.initialised = true ∧ (0x04#8 : Byte).toNat < Config.cap := by decide

theorem witness_get_selected : ∃ s : State, s.initialised = true ∧ s.reqReg = 0x08#8 :=
  ⟨st .listening [] [] 0x08#8 0x0DD6#16, rfl, rfl⟩

theorem witness_listening_empty : State.reset.initialised = true ∧ State.reset.Inv ∧ State.reset.mode = .listening ∧
    State.reset.IN.count = 0 ∧ State.reset.IN.data.wf = true :=
  ⟨rfl, by constructor <;> decide, rfl, rfl, rfl⟩

end Sys2Proof.Tests
end

section
/-! PROOFS. What a step can do to the two Transaction Buffers, said once, and what follows for their fill counts
(10_state.md R26). -/

namespace Sys2Proof.Machine

theorem Buffer.count_le_of_append {B B' : Buffer} {b : Byte} (h : B.append b = some B') : B'.count ≤ Config.cap := by
  obtain ⟨hlt, hcount, -⟩ := Buffer.append_spec h
  omega

theorem Buffer.load_count_le (B : Buffer) (bs : List Byte) : (B.load bs).count ≤ Config.cap :=
  (Buffer.wf_iff.mp (Buffer.wf_load B bs)).1

/-- A step that completes parked the core or ran the handler of one instruction. -/
theorem step_next_handlerOf {s t : State} (h : step s = .next t) :
    t = s ∨ ∃ i rest, t = handlerOf i (s.take rest).beginStep := by
  obtain ⟨-, rfl⟩ | ⟨x, rest, i, -, -, he⟩ := step_next h
  · exact .inl rfl
  · exact .inr ⟨i, rest, (exec_next he).2⟩

@[simp] theorem onAddrW_IN (s : State) : s.onAddrW.IN = s.IN := by
  rcases Nat.lt_or_ge s.IN.count Config.cap with hc | hc
  · rw [onAddrW_of_lt hc]
  · rw [onAddrW_of_ge hc]

@[simp] theorem onAddrW_OUT (s : State) : s.onAddrW.OUT = s.OUT := by
  rcases Nat.lt_or_ge s.IN.count Config.cap with hc | hc
  · rw [onAddrW_of_lt hc]
  · rw [onAddrW_of_ge hc]

@[simp] theorem onRx_OUT (b : Byte) (s : State) : (s.onRx b).OUT = s.OUT := by
  rcases Nat.lt_or_ge s.IN.count Config.cap with hc | hc
  · rw [onRx_of_some (Buffer.append_eq_some hc)]
  · rw [onRx_of_ge b hc]

/-- An instruction keeps the inbound buffer, empties it, or appends one byte to it. -/
theorem handlerOf_IN (i : Instr) (s : State) :
    (handlerOf i s).IN = s.IN ∨ (handlerOf i s).IN = Buffer.empty ∨ ∃ b, s.IN.append b = some (handlerOf i s).IN := by
  cases i with
  | init | err => exact .inr (.inl rfl)
  | stop => exact .inr (.inl (by simp [handlerOf, onStop_eq]))
  | rx b =>
    rcases Nat.lt_or_ge s.IN.count Config.cap with hc | hc
    · have happ := Buffer.append_eq_some (b := b) hc
      exact .inr (.inr ⟨b, by simp only [handlerOf, onRx_of_some happ, happ]⟩)
    · exact .inl (by simp only [handlerOf, onRx_of_ge b hc])
  | addrR => exact .inl (by simp only [handlerOf, onAddrR_eq])
  | addrW => exact .inl (onAddrW_IN s)
  | _ => exact .inl rfl

/-- An instruction keeps the outbound buffer, empties it, or loads a response into it. -/
theorem handlerOf_OUT (i : Instr) (s : State) :
    (handlerOf i s).OUT = s.OUT ∨ (handlerOf i s).OUT = Buffer.empty ∨ ∃ bs, (handlerOf i s).OUT = s.OUT.load bs := by
  cases i with
  | init | err | txc => exact .inr (.inl rfl)
  | addrR => exact .inr (.inr ⟨(s.buildResponse s.reqReg).resp, by simp only [handlerOf, onAddrR_eq]⟩)
  | addrW => exact .inl (onAddrW_OUT s)
  | rx b => exact .inl (onRx_OUT b s)
  | stop => exact .inl (by simp only [handlerOf, onStop_eq])
  | _ => exact .inl rfl

theorem handlerOf_IN_count_le (i : Instr) {s : State} (h : s.IN.count ≤ Config.cap) :
    (handlerOf i s).IN.count ≤ Config.cap := by
  obtain hkeep | hempty | ⟨b, happ⟩ := handlerOf_IN i s
  · exact hkeep ▸ h
  · simp [hempty]
  · exact Buffer.count_le_of_append happ

theorem handlerOf_OUT_count_le (i : Instr) {s : State} (h : s.OUT.count ≤ Config.cap) :
    (handlerOf i s).OUT.count ≤ Config.cap := by
  obtain hkeep | hempty | ⟨bs, hload⟩ := handlerOf_OUT i s
  · exact hkeep ▸ h
  · simp [hempty]
  · exact hload ▸ Buffer.load_count_le _ bs

/-- Settles O16: reset holds two empty buffers, and an instruction leaves a buffer as it was, empties it, or fills it
by appends, which stop at the capacity (R161). -/
theorem fillCountsNeverExceedCapacity : Obligations.FillCountsNeverExceedCapacity := by
  refine ⟨⟨Nat.zero_le _, Nat.zero_le _⟩, fun s t hIN hOUT hstep => ?_⟩
  obtain rfl | ⟨i, rest, rfl⟩ := step_next_handlerOf hstep
  · exact ⟨hIN, hOUT⟩
  · exact ⟨handlerOf_IN_count_le i hIN, handlerOf_OUT_count_le i hOUT⟩

end Sys2Proof.Machine
end

section
/-! PROOFS. A queue of instructions is run one at a time, and what waits behind it is neither read nor changed
(20_memory.md R50). -/

namespace Sys2Proof

/-- A well-formed instruction is what its encoding decodes to: the round trips of the 18 rows put together. -/
theorem decode_encode : ∀ {i : Instr}, i.wf = true → decode (encode i) = .ok i
  | .init => Laws.RoundTrip.init
  | .addrR => Laws.RoundTrip.addrR
  | .addrW => Laws.RoundTrip.addrW
  | .rx b => Laws.RoundTrip.rx b
  | .txc => Laws.RoundTrip.txc
  | .rxc => Laws.RoundTrip.rxc
  | .stop => Laws.RoundTrip.stop
  | .err => Laws.RoundTrip.err
  | .readGet => Laws.RoundTrip.readGet
  | .readUnknown r => Laws.RoundTrip.readUnknown r
  | .select r => Laws.RoundTrip.select r
  | .writeSet hi rest => Laws.RoundTrip.writeSet hi rest
  | .writeUnknown r hi rest => Laws.RoundTrip.writeUnknown r hi rest
  | .selectNone => Laws.RoundTrip.selectNone
  | .noCommand => Laws.RoundTrip.noCommand
  | .beginReceive off => Laws.RoundTrip.beginReceive off
  | .beginTransmit => Laws.RoundTrip.beginTransmit
  | .rearmListen => Laws.RoundTrip.rearmListen

end Sys2Proof

namespace Sys2Proof.Machine

/-- A step executes what the next input decodes to. -/
theorem step_of_decode {s : State} {x : Input} {rest : List Input} {i : Instr} (hs : s.inputs = x :: rest)
    (hx : decode x = .ok i) : step s = exec i (s.take rest) := by
  simp only [step, hs, hx]

/-- An instruction that completes leaves what waits to be presented. -/
theorem exec_next_inputs {i : Instr} {s t : State} (h : exec i s = .next t) : t.inputs = s.inputs := by
  obtain ⟨-, rfl⟩ := exec_next h
  rw [handlerOf_inputs, State.beginStep_inputs]

/-- A fold that completes executed its first instruction to completion and folded the others from there. -/
theorem runAll_cons_next {i : Instr} {is : List Instr} {s t : State} (h : runAll (i :: is) s = .next t) :
    ∃ u, exec i s = .next u ∧ runAll is u = .next t := by
  unfold runAll at h
  split at h
  · exact ⟨_, ‹_›, h⟩
  · cases h
  · cases h

/-- A step with a queue waiting is the meaning of the queue's first instruction; the others still wait. -/
theorem step_queue_cons {i : Instr} {is : List Instr} {s u : State} (hi : i.wf = true) (he : exec i s = .next u) :
    step (s.queue (i :: is)) = .next (u.queue is) := by
  have hstep : step (s.queue (i :: is)) = exec i (s.take (is.map encode ++ s.inputs)) :=
    step_of_decode rfl (decode_encode hi)
  rw [hstep, exec_take _ he, ← exec_next_inputs he]
  rfl

/-- Settles O10, by induction on the queue: its first step is the first instruction's meaning, which does not see the
instructions behind it (R50). -/
theorem runningAQueueIsFoldingTheSteps : Obligations.RunningAQueueIsFoldingTheSteps := by
  intro is
  induction is with
  | nil =>
    intro s t _ h
    cases h
    exact ⟨rfl, rfl⟩
  | cons i is ih =>
    intro s t hwf h
    obtain ⟨hi, his⟩ := List.forall_mem_cons.mp hwf
    obtain ⟨u, hexec, hrest⟩ := runAll_cons_next h
    obtain ⟨hinputs, hrun⟩ := ih u t his hrest
    exact ⟨hinputs.trans (exec_next_inputs hexec), (run_succ_of_step (step_queue_cons hi hexec)).trans hrun⟩

end Sys2Proof.Machine
end

section
/-! PROOFS. The bytes of a transaction on the bus (30_encoding.md section 1): which bytes of a write the core looks at
(R63), and what a read returns (R64). -/

namespace Sys2Proof.Machine

/-- Two cores run a handler alike when they agree on being initialised and the handler takes both to one state. -/
theorem handle_congr {f : State → State} {s s' : State} (hi : s.initialised = s'.initialised)
    (hf : f s.beginStep = f s'.beginStep) : s.handle f = s'.handle f := by
  simp only [State.handle, hi, hf]

/-- The payload is inbound byte 1 and, where the write reaches it, byte 2 (R145). -/
theorem payload_congr {n : Nat} {B B' : Buffer} (h1 : B.read 1 = B'.read 1) (h2 : 3 ≤ n → B.read 2 = B'.read 2) :
    payload n B = payload n B' := by
  unfold payload
  split
  · rw [h1, h2 ‹_›]
  · rw [h1]

theorem payload_of_three_le {n : Nat} (hn : 3 ≤ n) (B : Buffer) : payload n B = B.read 1 ++ B.read 2 := by
  simp [payload, payloadOf, hn]

/-- A stop reads the fill count of the inbound buffer and, of its valid bytes, the first three. -/
theorem onStop_setIN {s : State} {B : Buffer} (hcount : B.count = s.IN.count)
    (hread : ∀ i, i < 3 → i < s.IN.count → B.read i = s.IN.read i) :
    { s with IN := B }.onStop = s.onStop := by
  rcases Nat.eq_zero_or_pos s.IN.count with h0 | hpos
  · simp [onStop_eq, hcount, h0]
  have hreg : B.read 0 = s.IN.read 0 := hread 0 (by omega) hpos
  rcases Nat.lt_or_ge s.IN.count 2 with hlt | hge
  · simp [onStop_eq, hcount, hreg, Nat.not_le.mpr hlt]
  · have hpay : payload s.IN.count B = payload s.IN.count s.IN :=
      payload_congr (hread 1 (by omega) hge) (hread 2 (by omega))
    simp only [onStop_eq, hcount, hreg, hpay]

/-- Settles O45: a stop depends on the fill count, the register byte and the payload (R144), and the payload on bytes
1 and 2 alone, byte 1 the high one (R145). -/
theorem onlyTheFirstThreeBytesOfAWriteMatter : Obligations.OnlyTheFirstThreeBytesOfAWriteMatter := by
  refine ⟨fun s B hcount hread => handle_congr rfl (onStop_setIN (s := s.beginStep) hcount hread),
    fun s hinit _ => ⟨_, exec_of_initialised hinit .stop, fun hone => ?_, fun hthree hset => ?_⟩⟩
  · simp [handlerOf, onStop_eq, hone]
  · have hdev : (handlerOf .stop s.beginStep).dev = s.IN.read 1 ++ s.IN.read 2 := by
      simp [handlerOf, onStop_eq, hset, payload_of_three_le hthree, Nat.le_of_succ_le hthree]
    rw [hdev]
    exact ⟨BitVec.extractLsb'_append_eq_left, BitVec.extractLsb'_append_eq_right⟩

/-- Loading the two bytes of a value leaves them, high byte first, as the valid prefix (R164). -/
@[simp] theorem Buffer.readAll_load_wordBytes (B : Buffer) (v : Word) :
    (B.load (wordBytes v)).readAll = wordBytes v := by
  have hcount : (B.load (wordBytes v)).count = 2 := rfl
  rw [Buffer.readAll_of_two_le hcount.ge, hcount]
  simp [wordBytes, Buffer.load_two_read]

/-- A read address match answers with the two bytes of DeviceState or of the response to an unknown register (R64). -/
theorem onAddrR_response (s : State) :
    s.onAddrR.response = if s.reqReg = Config.regGet then wordBytes s.dev else wordBytes Config.unknownResp := by
  simp only [State.response, onAddrR_eq, buildResponse_eq]
  split <;> exact Buffer.readAll_load_wordBytes _ _

/-- Settles O22: the response is what `BuildResponse` built, loaded into OUT. -/
theorem readTransactionReturnsTwoBytes : Obligations.ReadTransactionReturnsTwoBytes := by
  intro s hinit
  have hresp : s.beginStep.onAddrR.response =
      if s.reqReg = 0x08#8 then wordBytes s.dev else [0xFF#8, 0xFF#8] := by
    simpa using onAddrR_response s.beginStep
  refine ⟨s.beginStep.onAddrR, exec_of_initialised hinit .addrR, hresp, fun hget hdev => ?_⟩
  rw [hresp, if_pos hget, hdev]
  decide

end Sys2Proof.Machine
end

section
/-! PROOFS. What the Register Dispatcher's two operations may touch (R140), and that a SET followed by a GET returns
the value set (R142): what a core has received so far of a write transaction, event by event. -/

namespace Sys2Proof.Machine

theorem applyWrite_dev (n : Nat) (s : State) :
    (s.applyWrite n).dev = if 2 ≤ n ∧ s.IN.read 0 = Config.regSet then payload n s.IN else s.dev := by
  rw [State.applyWrite, applyWriteWith_eq]

theorem applyWrite_reqReg (n : Nat) (s : State) :
    (s.applyWrite n).reqReg = if n = 0 then Config.regNone else s.IN.read 0 := by
  simp [State.applyWrite, applyWriteWith_eq]

/-- Settles O39: the frames are the two operations written as one update each; what they store is a function of the
argument and DeviceState (R141), and of IN (R144). -/
theorem theDispatcherTouchesOnlyWhatItMay : Obligations.TheDispatcherTouchesOnlyWhatItMay := by
  refine ⟨fun id s => ?_, fun id s s' hdev => ?_, fun s => ⟨?_, fun hne => ?_⟩, fun s s' hIN => ⟨?_, fun hn hset => ?_⟩⟩
  · rw [buildResponse_eq]
  · simp only [buildResponse_eq, hdev]
  · rw [State.applyWrite, applyWriteWith_eq]
  · by_contra hrow
    exact hne ((applyWrite_dev _ s).trans (if_neg hrow))
  · simp only [applyWrite_reqReg, hIN]
  · have hset' : s'.IN.read 0 = Config.regSet := hIN ▸ hset
    rw [applyWrite_dev, applyWrite_dev, if_pos ⟨hn, hset⟩, if_pos ⟨hIN ▸ hn, hset'⟩, hIN]

@[simp] theorem onAddrW_dev (s : State) : s.onAddrW.dev = s.dev := by
  rcases Nat.lt_or_ge s.IN.count Config.cap with hc | hc
  · rw [onAddrW_of_lt hc]
  · rw [onAddrW_of_ge hc]

/-! ### The valid bytes of a buffer -/

theorem Buffer.readAll_of_count_zero {B : Buffer} (h : B.count = 0) : B.readAll = [] := by
  simp [Buffer.readAll, h]

theorem Buffer.count_of_readAll {B : Buffer} {bs : List Byte} (h : B.readAll = bs) : B.count = bs.length := by
  rw [← h, Buffer.length_readAll]

theorem Buffer.read_of_readAll {B : Buffer} {bs : List Byte} {i : Nat} {b : Byte} (h : B.readAll = bs)
    (hb : bs[i]? = some b) : B.read i = b := by
  subst h
  obtain ⟨hi, -⟩ := List.getElem?_eq_some_iff.mp hb
  rw [Buffer.length_readAll] at hi
  exact Option.some.inj ((Buffer.getElem?_readAll hi).symm.trans hb)

/-- An accepted append puts its byte at the end of the valid bytes (R161). -/
theorem Buffer.readAll_append {B B' : Buffer} {b : Byte} (hwf : B.data.wf = true) (h : B.append b = some B') :
    B'.readAll = B.readAll ++ [b] := by
  obtain ⟨-, hcount, hlast, hkeep⟩ := Buffer.append_spec h
  have hkept : (List.range B.count).map B'.read = (List.range B.count).map B.read :=
    List.map_congr_left fun i hi => hkeep i (List.mem_range.mp hi).ne
  rw [Buffer.readAll, hcount, List.range_succ, List.map_append, hkept, List.map_singleton, (hlast hwf).1,
    Buffer.readAll]

/-! ### Runs of an initialised core -/

/-- The handlers of a sequence of instructions, one after another, each from cleared outputs. -/
def runHandlers (is : List Instr) (s : State) : State := is.foldl (fun u i => handlerOf i u.beginStep) s

/-- On an initialised core the fold of the meanings is the fold of the handlers. -/
theorem runAll_of_initialised (is : List Instr) {s : State} (h : s.initialised = true) :
    runAll is s = .next (runHandlers is s) := by
  induction is generalizing s with
  | nil => rfl
  | cons i is ih =>
    have hnext : (handlerOf i s.beginStep).initialised = true := handlerOf_initialised i h
    simp only [runAll, exec_of_initialised h]
    exact ih hnext

theorem runHandlers_append (is js : List Instr) (s : State) :
    runHandlers (is ++ js) s = runHandlers js (runHandlers is s) := List.foldl_append

/-! ### A write transaction, event by event -/

/-- The core is initialised, IN holds exactly the bytes `bs` in canonical form, and DeviceState is `v`. -/
structure State.Received (s : State) (bs : List Byte) (v : Word) : Prop where
  initialised : s.initialised = true
  canonical : s.IN.data.wf = true
  bytes : s.IN.readAll = bs
  dev : s.dev = v

section
variable {s : State} {bs : List Byte} {v : Word}

/-- The address match of a write keeps what has been received (R103). -/
theorem State.Received.addrW (h : s.Received bs v) : (handlerOf .addrW s.beginStep).Received bs v where
  initialised := handlerOf_initialised .addrW h.initialised
  canonical := by simpa [handlerOf] using h.canonical
  bytes := by simpa [handlerOf] using h.bytes
  dev := by simpa [handlerOf] using h.dev

/-- A byte that comes while there is room joins what has been received (R104). -/
theorem State.Received.rx (h : s.Received bs v) (b : Byte) (hroom : bs.length < Config.cap) :
    (handlerOf (.rx b) s.beginStep).Received (bs ++ [b]) v := by
  have hcount : s.IN.count < Config.cap := Buffer.count_of_readAll h.bytes ▸ hroom
  obtain ⟨B, happ⟩ : ∃ B, s.IN.append b = some B := ⟨_, Buffer.append_eq_some hcount⟩
  obtain ⟨-, -, hlast, -⟩ := Buffer.append_spec happ
  have hIN : (handlerOf (.rx b) s.beginStep).IN = B := by
    simp only [handlerOf, onRx_of_some (s := s.beginStep) happ]
  have hdev : (handlerOf (.rx b) s.beginStep).dev = s.dev := by
    simp only [handlerOf, onRx_of_some (s := s.beginStep) happ, State.beginStep_dev]
  exact
    { initialised := handlerOf_initialised (.rx b) h.initialised
      canonical := hIN ▸ (hlast h.canonical).2
      bytes := by rw [hIN, Buffer.readAll_append h.canonical happ, h.bytes]
      dev := hdev.trans h.dev }

/-- A stop empties what has been received (R107). -/
theorem State.Received.stop (h : s.Received bs v) :
    (handlerOf .stop s.beginStep).Received [] (handlerOf .stop s.beginStep).dev where
  initialised := handlerOf_initialised .stop h.initialised
  canonical := by simp [handlerOf, onStop_eq]
  bytes := Buffer.readAll_of_count_zero (by simp [handlerOf, onStop_eq])
  dev := rfl

/-- The stop after one byte selects it and keeps DeviceState (R147). -/
theorem State.Received.stop_select {r : Byte} (h : s.Received [r] v) :
    (handlerOf .stop s.beginStep).Received [] v ∧ (handlerOf .stop s.beginStep).reqReg = r := by
  have hcount : s.IN.count = 1 := Buffer.count_of_readAll h.bytes
  have hreg : s.IN.read 0 = r := Buffer.read_of_readAll h.bytes rfl
  have hdev : (handlerOf .stop s.beginStep).dev = v := by simp [handlerOf, onStop_eq, hcount, h.dev]
  exact ⟨hdev ▸ h.stop, by simp [handlerOf, onStop_eq, hcount, hreg]⟩

/-- The stop after register 0x09 and two bytes stores them in DeviceState (R148). -/
theorem State.Received.stop_set {hi lo : Byte} (h : s.Received [Config.regSet, hi, lo] v) :
    (handlerOf .stop s.beginStep).Received [] (hi ++ lo) := by
  have hcount : s.IN.count = 3 := Buffer.count_of_readAll h.bytes
  have hreg : s.IN.read 0 = Config.regSet := Buffer.read_of_readAll h.bytes rfl
  have hpay : payload 3 s.IN = hi ++ lo := by
    rw [payload_of_three_le le_rfl, Buffer.read_of_readAll h.bytes (i := 1) rfl,
      Buffer.read_of_readAll h.bytes (i := 2) rfl]
  have hdev : (handlerOf .stop s.beginStep).dev = hi ++ lo := by
    simp [handlerOf, onStop_eq, hcount, hreg, hpay]
  exact hdev ▸ h.stop

/-- `SELECT r` selects its register and keeps DeviceState (R76). -/
theorem State.Received.select (h : s.Received [] v) (r : Byte) :
    (runHandlers (Pseudo.select r).expand s).Received [] v ∧ (runHandlers (Pseudo.select r).expand s).reqReg = r :=
  (h.addrW.rx r (by decide)).stop_select

/-- `SET` of register 0x09 stores its value, which travels in two bytes, the high one first (R76, R42). -/
theorem State.Received.set (h : s.Received [] v) (w : Word) :
    (runHandlers (Pseudo.set Config.regSet w).expand s).Received [] w := by
  have hthree := ((h.addrW.rx Config.regSet (by decide)).rx (msb w) (by decide)).rx (lsb w) (by simp)
  have hstop := hthree.stop_set
  rwa [msb_append_lsb] at hstop

end

/-- A read of the selected register 0x08 returns DeviceState and raises nothing (R142). -/
theorem exec_addrR_of_get {s : State} (hinit : s.initialised = true) (hget : s.reqReg = Config.regGet) :
    ∃ t, exec .addrR s = .next t ∧ t.response = wordBytes s.dev ∧ t.err = .none := by
  refine ⟨s.beginStep.onAddrR, exec_of_initialised hinit .addrR, ?_, ?_⟩
  · rw [onAddrR_response, State.beginStep_reqReg, if_pos hget, State.beginStep_dev]
  · simp only [onAddrR_eq, buildResponse_eq, State.beginStep_reqReg, if_pos hget, State.beginStep_err]

/-- Settles O48: the SET leaves its value in DeviceState with IN empty again, the SELECT keeps it there, and the read
of register 0x08 returns it. -/
theorem setThenGetReturnsTheValue : Obligations.SetThenGetReturnsTheValue := by
  refine ⟨fun s hinit hget => exec_addrR_of_get hinit hget, fun s v hinit hinv _ hempty => ?_⟩
  obtain ⟨-, hcanonical, -⟩ := Buffer.wf_iff.mp hinv.inbound
  have hstart : s.Received [] s.dev := ⟨hinit, hcanonical, Buffer.readAll_of_count_zero hempty, rfl⟩
  obtain ⟨hend, hget⟩ := (hstart.set v).select Config.regGet
  obtain ⟨u, hread, hresp, herr⟩ := exec_addrR_of_get hend.initialised hget
  exact ⟨_, u, (runAll_of_initialised _ hinit).trans (congrArg _ (runHandlers_append _ _ s)), hend.dev, hread,
    hend.dev ▸ hresp, herr⟩

end Sys2Proof.Machine
end

section
/-! PROOFS. What an append does to a Transaction Buffer (42_transaction_buffers.md R161), and what the core does with a
byte for which the inbound buffer has no room (R166). -/

namespace Sys2Proof.Machine

theorem Buffer.append_eq_none_iff {B : Buffer} {b : Byte} : B.append b = none ↔ Config.cap ≤ B.count := by
  refine ⟨fun h => Nat.le_of_not_lt fun hlt => ?_, Buffer.append_eq_none⟩
  rw [Buffer.append_eq_some hlt] at h
  cases h

/-- The core after a byte it had no room for: as it was, but for the outputs (R166). -/
def State.overflowed (s : State) : State := { s with cmd := .none, err := .bufferOverflow, resp := [] }

/-- A byte received with IN full changes outputs only. -/
theorem handlerOf_rx_of_full {s : State} (b : Byte) (h : Config.cap ≤ s.IN.count) :
    handlerOf (.rx b) s.beginStep = s.overflowed :=
  onRx_of_ge b h

/-- One or more bytes received with IN full change outputs only: each leaves IN full for the next. -/
theorem runHandlers_rx_of_full (bs : List Byte) (b : Byte) {s : State} (h : Config.cap ≤ s.IN.count) :
    runHandlers ((bs ++ [b]).map Instr.rx) s = s.overflowed := by
  induction bs generalizing s with
  | nil => exact handlerOf_rx_of_full b h
  | cons c bs ih =>
    calc runHandlers ((c :: bs ++ [b]).map Instr.rx) s
      _ = runHandlers ((bs ++ [b]).map Instr.rx) (handlerOf (.rx c) s.beginStep) := rfl
      _ = runHandlers ((bs ++ [b]).map Instr.rx) s.overflowed := by rw [handlerOf_rx_of_full c h]
      _ = s.overflowed := ih (s := s.overflowed) h

/-- A stop starts by clearing the outputs, so it does not see that a byte was rejected before it. -/
theorem exec_stop_overflowed (s : State) : exec .stop s.overflowed = exec .stop s :=
  handle_congr rfl rfl

/-- Settles O18: an accepted append is `append_spec`, a rejected one is an append to a full buffer, and the step that
makes it changes outputs only, which the stop does not see. -/
theorem appendAddsOneByteOrIsRejected : Obligations.AppendAddsOneByteOrIsRejected := by
  refine ⟨fun B b hroom hwf => ?accepted, fun B b hfull => Buffer.append_eq_none hfull.ge,
    fun s t b hrej hexec => ?caller⟩
  case accepted =>
    have happ := Buffer.append_eq_some (b := b) hroom
    obtain ⟨-, hcount, hlast, hkeep⟩ := Buffer.append_spec happ
    obtain ⟨hread, hwf'⟩ := hlast hwf
    exact ⟨_, happ, hcount, hread, hkeep, hwf', Buffer.count_le_of_append happ⟩
  case caller =>
    obtain rfl : t = s.overflowed :=
      (exec_next hexec).2.trans (handlerOf_rx_of_full b (Buffer.append_eq_none_iff.mp hrej))
    exact ⟨rfl, rfl, exec_stop_overflowed s⟩

/-- A received byte leaves every index at or beyond the capacity as it was: an accepted one lands at the fill count,
below the capacity, and a rejected one lands nowhere. -/
theorem handlerOf_rx_read_of_cap_le {s : State} (b : Byte) {i : Nat} (hi : Config.cap ≤ i) :
    (handlerOf (.rx b) s.beginStep).IN.read i = s.IN.read i := by
  cases happ : s.IN.append b with
  | none => rw [handlerOf_rx_of_full b (Buffer.append_eq_none_iff.mp happ)]; rfl
  | some B =>
    obtain ⟨hroom, -, -, hkeep⟩ := Buffer.append_spec happ
    have hIN : (handlerOf (.rx b) s.beginStep).IN = B := by
      simp only [handlerOf, onRx_of_some (s := s.beginStep) happ]
    rw [hIN, hkeep i (by omega)]

/-- Settles O25: bytes received with IN full change outputs only, by induction on their number, and no received byte
is written at or beyond the capacity. -/
theorem byteBeyondCapacityIsRejected : Obligations.ByteBeyondCapacityIsRejected := by
  refine ⟨fun s bs b hinit hfull => ?_, fun s t b _ hexec i hi => ?_⟩
  · rw [runAll_of_initialised _ hinit, runHandlers_rx_of_full bs b hfull.ge]
    rfl
  · obtain ⟨-, rfl⟩ := exec_next hexec
    exact handlerOf_rx_read_of_cap_le b hi

end Sys2Proof.Machine
end

section
/-! PROOFS. The error label of a step (60_exceptions.md R200), said once for each event that can raise one, and that
the bus fault is the error event's alone (R203). -/

namespace Sys2Proof.Machine

theorem onAddrR_err (s : State) : s.onAddrR.err = if s.reqReg = Config.regGet then s.err else .unknownRegister := by
  simp only [onAddrR_eq, buildResponse_eq]

theorem onAddrW_err (s : State) : s.onAddrW.err = if Config.cap ≤ s.IN.count then .bufferOverflow else s.err := by
  rcases Nat.lt_or_ge s.IN.count Config.cap with hc | hc
  · rw [onAddrW_of_lt hc, if_neg (Nat.not_le.mpr hc)]
  · rw [onAddrW_of_ge hc, if_pos hc]

theorem onRx_err (b : Byte) (s : State) : (s.onRx b).err = if Config.cap ≤ s.IN.count then .bufferOverflow else s.err := by
  rcases Nat.lt_or_ge s.IN.count Config.cap with hc | hc
  · rw [onRx_of_some (Buffer.append_eq_some hc), if_neg (Nat.not_le.mpr hc)]
  · rw [onRx_of_ge b hc, if_pos hc]

theorem onStop_err (s : State) :
    s.onStop.err = if 2 ≤ s.IN.count ∧ s.IN.read 0 ≠ Config.regSet then .unknownRegister else s.err := by
  rw [onStop_eq]

/-- No instruction but `ERR` turns a label that is no bus fault into one: it keeps the label, or raises
`BufferOverflow` or `UnknownRegister`. -/
theorem handlerOf_err_ne_busFault {i : Instr} (hi : i ≠ .err) {s : State} (h : s.err ≠ .busFault) :
    (handlerOf i s).err ≠ .busFault := by
  cases i with
  | err => exact absurd rfl hi
  | addrR | addrW | rx | stop =>
    simp only [handlerOf, onAddrR_err, onAddrW_err, onRx_err, onStop_err]
    split <;> simp [h]
  | readUnknown | writeUnknown => exact ErrLabel.noConfusion
  | noCommand | beginReceive | beginTransmit | rearmListen => simpa only [handlerOf, State.emit_err] using h
  | _ => exact h

/-- Settles O31: every step starts with no label, which only the handler of `ERR` turns into a bus fault; that handler
re-arms listening and writes neither DeviceState nor RequestedRegister. -/
theorem onlyTheErrorEventRaisesBusFault : Obligations.OnlyTheErrorEventRaisesBusFault := by
  intro i s t hexec
  obtain ⟨-, rfl⟩ := exec_next hexec
  have hclear : s.beginStep.err ≠ .busFault := by simp
  refine ⟨⟨fun hfault => ?only, ?raised⟩, ?effect⟩
  case only =>
    by_contra hi
    exact handlerOf_err_ne_busFault hi hclear hfault
  case raised =>
    rintro rfl
    exact State.takeBusFault_err _
  case effect =>
    rintro rfl
    exact ⟨State.takeBusFault_cmd _, State.takeBusFault_dev _, State.takeBusFault_reqReg _⟩

end Sys2Proof.Machine
end

section
/-! PROOFS. What a read does to the selection (70_reset_and_hazards.md R242): its address match clears it, and the
stop of a read with no byte waiting in IN selects nothing either. -/

namespace Sys2Proof.Machine

@[simp] theorem onAddrR_reqReg (s : State) : s.onAddrR.reqReg = Config.regNone := by
  rw [onAddrR_eq]

@[simp] theorem onAddrR_IN (s : State) : s.onAddrR.IN = s.IN := by
  rw [onAddrR_eq]

theorem onStop_reqReg (s : State) :
    s.onStop.reqReg = if s.IN.count = 0 then Config.regNone else s.IN.read 0 := by
  rw [onStop_eq]

/-- After a read transaction the selection is what its stop makes of the bytes that waited in IN (R107). -/
theorem runHandlers_read_reqReg (s : State) :
    (runHandlers Pseudo.read.expand s).reqReg = if s.IN.count = 0 then Config.regNone else s.IN.read 0 := by
  have hIN : (runHandlers [.addrR, .txc] s).IN = s.IN := by simp [runHandlers, handlerOf]
  calc (runHandlers Pseudo.read.expand s).reqReg
      = (runHandlers [.addrR, .txc] s).beginStep.onStop.reqReg := rfl
    _ = if s.IN.count = 0 then Config.regNone else s.IN.read 0 := by rw [onStop_reqReg, State.beginStep_IN, hIN]

/-- A read of any register but 0x08 returns the bytes of the unknown response, with its label (R143). -/
theorem exec_addrR_of_ne_get {s : State} (hinit : s.initialised = true) (hne : s.reqReg ≠ Config.regGet) :
    ∃ t, exec .addrR s = .next t ∧ t.response = wordBytes Config.unknownResp ∧ t.err = .unknownRegister := by
  refine ⟨s.beginStep.onAddrR, exec_of_initialised hinit .addrR, ?_, ?_⟩
  · rw [onAddrR_response, State.beginStep_reqReg, if_neg hne]
  · rw [onAddrR_err, State.beginStep_reqReg, if_neg hne]

theorem runHandlers_initialised (is : List Instr) {s : State} (h : s.initialised = true) :
    (runHandlers is s).initialised = true := by
  induction is generalizing s with
  | nil => exact h
  | cons i is ih => exact ih (handlerOf_initialised i (s := s.beginStep) h)

/-- Runs one after the other: what follows a sequence runs from where its handlers leave the core. -/
theorem runAll_append_of_initialised (is js : List Instr) {s : State} (h : s.initialised = true) :
    runAll (is ++ js) s = runAll js (runHandlers is s) := by
  rw [runAll_of_initialised _ h, runAll_of_initialised _ (runHandlers_initialised is h), runHandlers_append]

/-- Settles O49: ADDR_R clears the selection; with IN empty the first read's stop leaves it cleared, and register 0x00
is not the one a read answers from DeviceState. -/
theorem aReadConsumesTheSelection : Obligations.AReadConsumesTheSelection := by
  refine fun s hinit => ⟨⟨_, exec_of_initialised hinit .addrR, onAddrR_reqReg _⟩, fun hempty => ?_⟩
  have hne : (runHandlers Pseudo.read.expand s).reqReg ≠ Config.regGet := by
    rw [runHandlers_read_reqReg, if_pos hempty]
    decide
  obtain ⟨u, hread, hresp, herr⟩ := exec_addrR_of_ne_get (runHandlers_initialised _ hinit) hne
  refine ⟨u, ?_, hresp.trans wordBytes_unknownResp, herr⟩
  rw [runAll_append_of_initialised _ _ hinit]
  simp only [runAll, hread]

end Sys2Proof.Machine
end

section
/-! PROOFS. The encodings (30_encoding.md sections 2 and 3): what decodes is built of the fields of its instruction's
word, which words are reserved, and that the event words and the command words are apart. -/

namespace Sys2Proof

/-- Settles O2: the round trips of the 18 rows, put together in `decode_encode`. -/
theorem decodingAnEncodingGivesTheInstruction : Obligations.DecodingAnEncodingGivesTheInstruction :=
  fun _ => decode_encode

/-! ### What each part of the event decoder accepts -/

section
variable {w : Word} {i j reads writes : Instr}

theorem decodePlain_eq_ok : decodePlain w i = .ok j ↔ evDir w = 0#1 ∧ evData w = 0#8 ∧ i = j := by
  unfold decodePlain
  split
  · simp_all
  · split <;> simp_all

theorem decodeReceived_eq_ok : decodeReceived w = .ok j ↔ evDir w = 0#1 ∧ .rx (evData w) = j := by
  unfold decodeReceived
  split <;> simp_all

theorem decodeDirected_eq_ok :
    decodeDirected w reads writes = .ok j ↔
      evData w = 0#8 ∧ (evDir w = 1#1 ∧ reads = j ∨ evDir w = 0#1 ∧ writes = j) := by
  unfold decodeDirected Direction.ofBit
  rcases BitVec.eq_zero_or_eq_one (evDir w) with hd | hd <;> by_cases hz : evData w = 0#8 <;> simp [hd, hz]

theorem decodePlain_refuses : (∃ e, decodePlain w i = .error e) ↔ evDir w = 1#1 ∨ evData w ≠ 0#8 := by
  unfold decodePlain
  rcases BitVec.eq_zero_or_eq_one (evDir w) with hd | hd <;> by_cases hz : evData w = 0#8 <;> simp [hd, hz]

theorem decodeReceived_refuses : (∃ e, decodeReceived w = .error e) ↔ evDir w = 1#1 := by
  unfold decodeReceived
  rcases BitVec.eq_zero_or_eq_one (evDir w) with hd | hd <;> simp [hd]

theorem decodeDirected_refuses : (∃ e, decodeDirected w reads writes = .error e) ↔ evData w ≠ 0#8 := by
  unfold decodeDirected Direction.ofBit
  rcases BitVec.eq_zero_or_eq_one (evDir w) with hd | hd <;> by_cases hz : evData w = 0#8 <;> simp [hd, hz]

end

/-! ### What decodes is an encoding -/

/-- A word whose fields are known is the event word of those fields. -/
theorem eventWord_of_fields_eq {w : Word} {k : BitVec 4} {d : BitVec 1} {b : Byte} (hr : evRsv w = 0#3)
    (hk : evKind w = k) (hd : evDir w = d) (hb : evData w = b) : eventWord k d b = w := by
  subst hk hd hb
  exact eventWord_of_fields hr

/-- A word that decodes as an event is the encoding of a well-formed instruction. -/
theorem encode_of_decodeEvent {w : Word} {i : Instr} (h : decodeEvent w = .ok i) :
    i.wf = true ∧ encode i = .event w := by
  unfold decodeEvent at h
  split at h
  · cases h
  have hr : evRsv w = 0#3 := not_not.mp ‹_›
  have word {k d b} := @eventWord_of_fields_eq w k d b hr
  split_ifs at h with h1 h2 h3 h4 h5 hF
  · obtain ⟨hz, ⟨hd, rfl⟩ | ⟨hd, rfl⟩⟩ := decodeDirected_eq_ok.mp h <;> exact ⟨rfl, congrArg _ (word h1 hd hz)⟩
  · obtain ⟨hd, rfl⟩ := decodeReceived_eq_ok.mp h
    exact ⟨rfl, congrArg _ (word h2 hd rfl)⟩
  · obtain ⟨hz, ⟨hd, rfl⟩ | ⟨hd, rfl⟩⟩ := decodeDirected_eq_ok.mp h <;> exact ⟨rfl, congrArg _ (word h3 hd hz)⟩
  · obtain ⟨hd, hz, rfl⟩ := decodePlain_eq_ok.mp h
    exact ⟨rfl, congrArg _ (word h4 hd hz)⟩
  · obtain ⟨hd, hz, rfl⟩ := decodePlain_eq_ok.mp h
    exact ⟨rfl, congrArg _ (word h5 hd hz)⟩
  · obtain ⟨hd, hz, rfl⟩ := decodePlain_eq_ok.mp h
    exact ⟨rfl, congrArg _ (word hF hd hz)⟩

/-- A read decodes to the row of its register (R142, R143). -/
theorem encode_decodeRead (id : Byte) : (decodeRead id).wf = true ∧ encode (decodeRead id) = .read id := by
  unfold decodeRead
  split
  · exact ⟨rfl, congrArg _ (Eq.symm ‹_›)⟩
  · exact ⟨bne_iff_ne.mpr ‹_›, rfl⟩

/-- The bytes of a write that decodes are the encoding of a well-formed row (R144). -/
theorem encode_of_decodeWrite {bytes : List Byte} {i : Instr} (h : decodeWrite bytes = .ok i) :
    i.wf = true ∧ encode i = .write bytes := by
  match bytes with
  | [] | [_] =>
    obtain rfl := Except.ok.inj h
    exact ⟨rfl, rfl⟩
  | r :: hi :: rest =>
    simp only [decodeWrite] at h
    split_ifs at h with hfits hset
    · obtain rfl := Except.ok.inj h
      exact ⟨hfits, hset ▸ rfl⟩
    · obtain rfl := Except.ok.inj h
      exact ⟨Bool.and_eq_true_iff.mpr ⟨bne_iff_ne.mpr hset, hfits⟩, rfl⟩

/-- A word that decodes as a command is the encoding of a well-formed instruction, and the word of a command. -/
theorem encode_of_decodeCommand {w : Word} {i : Instr} (h : decodeCommand w = .ok i) :
    i.wf = true ∧ encode i = .command w ∧ ∃ c : Command, w = c.word := by
  unfold decodeCommand at h
  split_ifs at h with h0 hT hL hR hoff <;> obtain rfl := Except.ok.inj h
  · exact ⟨rfl, congrArg _ h0.symm, _, h0⟩
  · exact ⟨rfl, congrArg _ hT.symm, _, hT⟩
  · exact ⟨rfl, congrArg _ hL.symm, _, hL⟩
  · exact ⟨decide_eq_true hoff, congrArg _ hR.symm, _, hR⟩

/-- Settles O3, by the four forms an input has. -/
theorem whatDecodesIsTheEncodingOfItsInstruction : Obligations.WhatDecodesIsTheEncodingOfItsInstruction := by
  intro x i h
  cases x with
  | event w => exact encode_of_decodeEvent h
  | read id =>
    obtain rfl := Except.ok.inj h
    exact encode_decodeRead id
  | write bytes => exact encode_of_decodeWrite h
  | command w =>
    obtain ⟨hwf, henc, -⟩ := encode_of_decodeCommand h
    exact ⟨hwf, henc⟩

/-! ### The reserved words -/

/-- The kinds that name no event (R69). -/
theorem reservedKind_iff : ∀ k : BitVec 4,
    k = 0x0#4 ∨ (0x6#4 ≤ k ∧ k ≤ 0xE#4) ↔
      k ≠ 0x1#4 ∧ k ≠ 0x2#4 ∧ k ≠ 0x3#4 ∧ k ≠ 0x4#4 ∧ k ≠ 0x5#4 ∧ k ≠ 0xF#4 := by
  decide

/-- The four ways an event word is reserved (R69), as the decoder's fields. -/
theorem decodeEvent_refuses {w : Word} :
    (∃ e, decodeEvent w = .error e) ↔
      (evKind w = 0x0#4 ∨ (0x6#4 ≤ evKind w ∧ evKind w ≤ 0xE#4)) ∨ evRsv w ≠ 0#3 ∨
        (evDir w = 1#1 ∧ evKind w ≠ 0x1#4 ∧ evKind w ≠ 0x3#4) ∨ (evData w ≠ 0#8 ∧ evKind w ≠ 0x2#4) := by
  rw [reservedKind_iff]
  unfold decodeEvent
  split
  · simp [*]
  have hr : evRsv w = 0#3 := not_not.mp ‹_›
  split_ifs with h1 h2 h3 h4 h5 hF
  · simp [decodeDirected_refuses, hr, h1]
  · simp [decodeReceived_refuses, hr, h2]
  · simp [decodeDirected_refuses, hr, h3]
  · simp [decodePlain_refuses, hr, h4]
  · simp [decodePlain_refuses, hr, h5]
  · simp [decodePlain_refuses, hr, hF]
  · simp [h1, h2, h3, h4, h5, hF]

/-- Settles O4: the decoder refuses exactly the reserved words, and a step refuses what the decoder does. -/
theorem reservedEventWordsAndOnlyThoseAreRefused : Obligations.ReservedEventWordsAndOnlyThoseAreRefused := by
  refine fun w => ⟨?_, fun s rest e hs he => ?_⟩
  · rw [decodeEvent_refuses, or_assoc]
    rfl
  · simp only [Machine.step, hs, decode, he]
    rfl

/-! ### Command words -/

/-- A receive command's word, read as an event word: its kind is that of `STOP`, with the direction bit set. -/
theorem word_beginReceive_eq_eventWord (off : Byte) : (Command.beginReceive off).word = eventWord 0x4#4 1#1 off := rfl

/-- No command's word is an event word. -/
theorem decodeEvent_command_word (c : Command) : ∃ e, decodeEvent c.word = .error e := by
  cases c with
  | none | beginTransmit | rearmListen =>
    rw [decodeEvent_refuses]
    decide
  | beginReceive off =>
    rw [word_beginReceive_eq_eventWord, decodeEvent_refuses]
    simp

/-- Settles O5: what decodes as a command is a command's word, which the event decoder refuses. -/
theorem eventAndCommandWordsAreDisjoint : Obligations.EventAndCommandWordsAreDisjoint := by
  rintro w i j ⟨hevent, hcommand⟩
  obtain ⟨-, -, c, rfl⟩ := encode_of_decodeCommand hcommand
  obtain ⟨e, he⟩ := decodeEvent_command_word c
  cases hevent.symm.trans he

theorem word_beginReceive_eq_add (off : Byte) :
    (Command.beginReceive off).word = 0x4100#16 + off.zeroExtend 16 := by
  apply BitVec.eq_of_toNat_eq
  have hoff : off.toNat < 2 ^ 8 := off.isLt
  have hword : (Command.beginReceive off).word.toNat = 0x41 <<< 8 ||| off.toNat := BitVec.toNat_append _ _
  rw [hword, ← Nat.shiftLeft_add_eq_or_of_lt hoff]
  simp
  omega

/-- Settles O6: the receive word as a sum, and its fields by `cmdFields_commandWord`. -/
theorem commandWordsHaveTheirFields : Obligations.CommandWordsHaveTheirFields :=
  ⟨by decide, by decide, by decide, fun off => ⟨word_beginReceive_eq_add off, cmdFields_commandWord ..⟩⟩

/-- Settles O1: each word of the spec, decoded. -/
theorem specWordsDecodeToTheirInstructions : Obligations.SpecWordsDecodeToTheirInstructions := by
  unfold Obligations.SpecWordsDecodeToTheirInstructions
  decide

end Sys2Proof
end

section
/-! PROOFS. The assembler text of an event (30_encoding.md section 4): a digit, a byte and a line read back as what they
were written from. -/

namespace Sys2Proof.Machine

theorem hexValue_hexDigit : ∀ n : BitVec 4, hexValue (hexDigit n) = some n := by decide

theorem hexDigit_ne_semicolon : ∀ n : BitVec 4, hexDigit n ≠ ';' := by decide

theorem hexDigit_ne_space : ∀ n : BitVec 4, hexDigit n ≠ ' ' := by decide

theorem nibbles_append (b : Byte) : b.extractLsb' 4 4 ++ b.extractLsb' 0 4 = b :=
  (BitVec.extractLsb'_append_extractLsb'_eq_extractLsb' (x := b) (start₁ := 0) (len₁ := 4) rfl).trans
    BitVec.extractLsb'_eq_self

/-- The line of a received byte has no comment and no space at its end. -/
theorem stripComment_rx {c d : Char} (hc : c ≠ ';') (hd : d ≠ ';') (hd' : d ≠ ' ') :
    stripComment ['R', 'X', ' ', '0', 'x', c, d] = ['R', 'X', ' ', '0', 'x', c, d] := by
  simp [stripComment, hc, hd, hd']

/-- A line with two digits after `RX 0x` is the reception of the byte they spell. -/
theorem asmLine_of_digits {line : List Char} {c d : Char} {h l : BitVec 4}
    (hline : stripComment line = ['R', 'X', ' ', '0', 'x', c, d]) (hc : hexValue c = some h) (hd : hexValue d = some l) :
    asmLine line = some (.rx (h ++ l)) := by
  rw [asmLine, hline]
  change (match hexValue c, hexValue d with
    | some h, some l => some (Instr.rx (h ++ l))
    | _, _ => none) = _
  rw [hc, hd]

theorem asmLine_rx (b : Byte) : asmLine (['R', 'X', ' '] ++ hexByte b) = some (.rx b) := by
  have hstrip := stripComment_rx (hexDigit_ne_semicolon (b.extractLsb' 4 4))
    (hexDigit_ne_semicolon (b.extractLsb' 0 4)) (hexDigit_ne_space (b.extractLsb' 0 4))
  exact (asmLine_of_digits hstrip (hexValue_hexDigit _) (hexValue_hexDigit _)).trans
    (congrArg (some ∘ Instr.rx) (nibbles_append b))

/-- Settles O7: seven events have a fixed line, and the line of a received byte is read digit by digit. -/
theorem assemblerLinesReadBack : Obligations.AssemblerLinesReadBack := by
  intro i hi
  cases i with
  | rx b => exact ⟨_, rfl, asmLine_rx b⟩
  | init | addrR | addrW | txc | rxc | stop | err => exact ⟨_, rfl, by decide⟩
  | _ => cases hi

end Sys2Proof.Machine
end

section
/-! PROOFS. What a Transaction Buffer holds: nothing beyond its fill count (10_state.md R27), and after a `Load` exactly
the bytes loaded (42_transaction_buffers.md R164). -/

namespace Sys2Proof.Machine

/-- A well-formed buffer reads as cleared at and beyond its fill count (R27). -/
theorem Buffer.read_of_count_le {B : Buffer} {i : Nat} (hwf : B.wf = true) (hi : B.count ≤ i) :
    B.read i = Config.clearedByte := by
  obtain ⟨-, -, hbelow⟩ := Buffer.wf_iff.mp hwf
  exact Memory.read_of_all_lt hbelow hi

/-- Settles O17: both buffers of a state that meets the invariant are well formed. -/
theorem bytesBeyondTheFillCountReadZero : Obligations.BytesBeyondTheFillCountReadZero :=
  fun _ _ hinv => ⟨Buffer.read_of_count_le hinv.inbound, Buffer.read_of_count_le hinv.outbound⟩

/-- A well-formed buffer holds its valid bytes. -/
theorem Buffer.holds_readAll {B : Buffer} (hwf : B.wf = true) : B.Holds B.readAll := by
  refine ⟨B.length_readAll.symm, fun i => ?_⟩
  rw [List.getD_eq_getElem?_getD]
  rcases Nat.lt_or_ge i B.count with hi | hi
  · rw [Buffer.getElem?_readAll hi, Option.getD_some]
  · rw [List.getElem?_eq_none (B.length_readAll.trans_le hi), Option.getD_none, Buffer.read_of_count_le hwf hi]

/-- Bytes for which there is room are all appended, in their order. -/
theorem Buffer.readAll_appendAll {B : Buffer} {bs : List Byte} (hwf : B.data.wf = true)
    (hroom : B.count + bs.length ≤ Config.cap) : (B.appendAll bs).readAll = B.readAll ++ bs := by
  induction bs generalizing B with
  | nil => rw [Buffer.appendAll, List.append_nil]
  | cons b bs ih =>
    rw [List.length_cons] at hroom
    have happ := Buffer.append_eq_some (B := B) (b := b) (by omega)
    obtain ⟨-, hcount, hlast, -⟩ := Buffer.append_spec happ
    simp only [Buffer.appendAll, happ]
    rw [ih (hlast hwf).2 (by omega), Buffer.readAll_append hwf happ, List.append_assoc, List.singleton_append]

/-- `Load` of at most CAP bytes leaves them as the valid bytes, whatever the buffer held (R164). -/
theorem Buffer.readAll_load (B : Buffer) {bs : List Byte} (h : bs.length ≤ Config.cap) : (B.load bs).readAll = bs := by
  rw [Buffer.load, Buffer.resetBuf_eq, Buffer.readAll_appendAll Memory.wf_nil (by simpa using h)]
  rfl

theorem Buffer.holds_load (B : Buffer) {bs : List Byte} (h : bs.length ≤ Config.cap) : (B.load bs).Holds bs := by
  have hholds := Buffer.holds_readAll (Buffer.wf_load B bs)
  rwa [Buffer.readAll_load B h] at hholds

/-- Settles O19: a `Load` appends every byte to a reset buffer. -/
theorem loadThenReadAllGivesTheBytes : Obligations.LoadThenReadAllGivesTheBytes := by
  intro B bs h
  obtain ⟨-, hcanonical, -⟩ := Buffer.wf_iff.mp (Buffer.wf_load B bs)
  exact ⟨Buffer.holds_load B h, hcanonical, Buffer.readAll_load B h, Buffer.holds_readAll Buffer.wf_empty⟩

end Sys2Proof.Machine
end

section
/-! PROOFS. Steps and runs: a step executes what its input decodes to, a core with nothing presented stays as it is, an
initialised core refuses no sequence of instructions, and an uninitialised one runs `INIT` only. -/

namespace Sys2Proof.Machine

theorem step_of_inputs_nil {s : State} (h : s.inputs = []) : step s = .next s := by
  simp only [step, h, State.park]

/-- A step refuses an input that spells no instruction. -/
theorem step_of_decode_error {s : State} {x : Input} {rest : List Input} {e : DecodeError} (hs : s.inputs = x :: rest)
    (hx : decode x = .error e) : step s = .refused (.undecodable e) := by
  simp only [step, hs, hx, State.refuse]

/-- Settles O8: the three cases of a step, each stated by its own lemma. -/
theorem stepRunsTheDecodedInstruction : Obligations.StepRunsTheDecodedInstruction :=
  ⟨fun _ _ _ _ hs hx => step_of_decode hs hx, fun _ _ _ _ hs hx => step_of_decode_error hs hx,
    fun _ h => step_of_inputs_nil h⟩

/-- A run of a core with nothing presented leaves it as it is (40_state_machine.md R111). -/
theorem run_of_inputs_nil {s : State} (k : Nat) (h : s.inputs = []) : Sys2Proof.core.run k s = .next s := by
  induction k with
  | zero => rfl
  | succ k ih => rw [run_succ_of_step (step_of_inputs_nil h), ih]

/-- Settles O9, by induction on the number of steps. -/
theorem withoutAnEventTheCoreStaysParked : Obligations.WithoutAnEventTheCoreStaysParked :=
  fun _ k h => run_of_inputs_nil k h

/-- An initialised core with well-formed instructions waiting runs safely for any number of steps. -/
theorem safeRun_of_initialised {is : List Instr} (hwf : ∀ i ∈ is, i.wf = true) (k : Nat) {s : State}
    (hinit : s.initialised = true) (hs : s.inputs = is.map encode) : SafeRun k s := by
  induction is generalizing k s with
  | nil => exact ⟨s, run_of_inputs_nil k hs⟩
  | cons i is ih =>
    obtain ⟨hi, his⟩ := List.forall_mem_cons.mp hwf
    cases k with
    | zero => exact ⟨s, rfl⟩
    | succ k =>
      have hstep : step s = .next (handlerOf i (s.take (is.map encode)).beginStep) :=
        (step_of_decode hs (decode_encode hi)).trans (exec_of_initialised (s := s.take (is.map encode)) hinit i)
      obtain ⟨t, ht⟩ := ih his k (handlerOf_initialised i (s := (s.take (is.map encode)).beginStep) hinit)
        (handlerOf_inputs i _)
      exact ⟨t, (run_succ_of_step hstep).trans ht⟩

/-- Settles O11, by induction on the sequence: on an initialised core every instruction completes and leaves the core
initialised. -/
theorem noSequenceOfEventsIsRefused : Obligations.NoSequenceOfEventsIsRefused :=
  fun _ _ k hinit hwf => safeRun_of_initialised hwf k hinit rfl

theorem handle_of_uninitialised {s : State} (h : s.initialised = false) (f : State → State) :
    s.handle f = .refused .notInitialised := by
  simp [State.handle, h]

/-- Settles O12: every instruction but `INIT` runs in the frame that refuses an uninitialised core. -/
theorem beforeInitOnlyInitRuns : Obligations.BeforeInitOnlyInitRuns := by
  refine fun s h => ⟨fun i hi => ?_, _, exec_init s, rfl⟩
  cases i with
  | init => exact absurd rfl hi
  | _ => exact handle_of_uninitialised h _

end Sys2Proof.Machine
end

section
/-! PROOFS. The mode and the command of each event (40_state_machine.md section 8), field by field, and that no event but
a received byte reads the mode (section 1). -/

namespace Sys2Proof.Machine

section
variable (b : Byte) (s : State)

@[simp] theorem onAddrR_mode : s.onAddrR.mode = .transmitting := by rw [onAddrR_eq]
@[simp] theorem onAddrR_cmd : s.onAddrR.cmd = .beginTransmit := by rw [onAddrR_eq]
@[simp] theorem onAddrR_lastOp : s.onAddrR.lastOp = .beginTransmit := by rw [onAddrR_eq]
@[simp] theorem onAddrR_dev : s.onAddrR.dev = s.dev := by rw [onAddrR_eq]
@[simp] theorem onStop_mode : s.onStop.mode = .listening := by rw [onStop_eq]
@[simp] theorem onStop_cmd : s.onStop.cmd = .rearmListen := by rw [onStop_eq]
@[simp] theorem onStop_lastOp : s.onStop.lastOp = .rearmListen := by rw [onStop_eq]
@[simp] theorem onStop_OUT : s.onStop.OUT = s.OUT := by rw [onStop_eq]
@[simp] theorem onStop_resp : s.onStop.resp = s.resp := by rw [onStop_eq]

/-- A write address match changes the mode and the outputs only. -/
theorem onAddrW_eq :
    s.onAddrW =
      { s with
        mode := .receiving
        cmd := (if s.IN.count < Config.cap then receiveAt s.IN.count else s.cmd)
        lastOp := (if s.IN.count < Config.cap then receiveAt s.IN.count else s.lastOp)
        err := if s.IN.count < Config.cap then s.err else .bufferOverflow } := by
  rcases Nat.lt_or_ge s.IN.count Config.cap with hc | hc
  · simp only [onAddrW_of_lt hc, if_pos hc]
  · simp only [onAddrW_of_ge hc, if_neg (Nat.not_lt.mpr hc)]

@[simp] theorem onAddrW_mode : s.onAddrW.mode = .receiving := by rw [onAddrW_eq]
@[simp] theorem onAddrW_reqReg : s.onAddrW.reqReg = s.reqReg := by rw [onAddrW_eq]
@[simp] theorem onAddrW_resp : s.onAddrW.resp = s.resp := by rw [onAddrW_eq]
theorem onAddrW_cmd : s.onAddrW.cmd = if s.IN.count < Config.cap then receiveAt s.IN.count else s.cmd := by
  rw [onAddrW_eq]

/-- A received byte changes the inbound buffer and the outputs only. -/
theorem onRx_frame : { s.onRx b with IN := s.IN, cmd := s.cmd, lastOp := s.lastOp, err := s.err } = s := by
  rcases Nat.lt_or_ge s.IN.count Config.cap with hc | hc
  · rw [onRx_of_some (Buffer.append_eq_some hc)]
  · rw [onRx_of_ge b hc]

@[simp] theorem onRx_mode : (s.onRx b).mode = s.mode := (congrArg State.mode (onRx_frame b s) :)
@[simp] theorem onRx_reqReg : (s.onRx b).reqReg = s.reqReg := (congrArg State.reqReg (onRx_frame b s) :)
@[simp] theorem onRx_dev : (s.onRx b).dev = s.dev := (congrArg State.dev (onRx_frame b s) :)
@[simp] theorem onRx_resp : (s.onRx b).resp = s.resp := (congrArg State.resp (onRx_frame b s) :)

/-- A received byte asks for one more in `Receiving`, where it was accepted and there is still room (R104). -/
theorem onRx_cmd :
    (s.onRx b).cmd =
      if s.mode = .receiving ∧ s.IN.count < Config.cap ∧ (s.onRx b).IN.count < Config.cap
      then receiveAt (s.onRx b).IN.count else s.cmd := by
  rcases Nat.lt_or_ge s.IN.count Config.cap with hc | hc
  · simp only [onRx_of_some (Buffer.append_eq_some hc), hc, true_and]
  · rw [if_neg fun h => Nat.not_lt.mpr hc h.2.1, onRx_of_ge b hc]

end

/-- Settles O32: the mode and the command of each handler. -/
theorem modesAndCommandsFollowTheTable : Obligations.ModesAndCommandsFollowTheTable := by
  refine fun i s hinit hi => ⟨_, exec_of_initialised hinit i, ?_⟩
  cases i with
  | addrR => exact ⟨onAddrR_mode _, onAddrR_cmd _⟩
  | addrW => exact ⟨onAddrW_mode _, by simp only [handlerOf, onAddrW_cmd, onAddrW_IN]; rfl⟩
  | rx b => exact ⟨onRx_mode b _, onRx_cmd b _⟩
  | stop => exact ⟨onStop_mode _, onStop_cmd _⟩
  | init | txc | rxc | err => exact ⟨rfl, rfl⟩
  | _ => cases hi

/-- An event that sets the mode starts by setting it, so it does not see what the mode was. -/
theorem handlerOf_setMode {i : Instr} (hi : i = .init ∨ i = .addrR ∨ i = .addrW ∨ i = .stop ∨ i = .err) (m : Mode)
    (s : State) : handlerOf i { s with mode := m } = handlerOf i s := by
  rcases hi with rfl | rfl | rfl | rfl | rfl <;> rfl

/-- Settles O33: five events set the mode, `TXC` and `RXC` keep it and do not read it. -/
theorem onlyAReceivedByteReadsTheMode : Obligations.OnlyAReceivedByteReadsTheMode := by
  intro i s t m hevent hrx hexec
  obtain ⟨hrun, rfl⟩ := exec_next hexec
  refine ⟨handlerOf i { s.beginStep with mode := m }, ?_, ?_⟩
  · rcases hrun with rfl | hinit
    · rfl
    · exact exec_of_initialised (s := { s with mode := m }) hinit i
  · cases i with
    | rx b => exact absurd rfl (hrx b)
    | txc => exact ⟨rfl, fun hne => absurd rfl hne⟩
    | rxc => exact ⟨rfl, fun _ hne => absurd rfl hne⟩
    | init | addrR | addrW | stop | err =>
      rw [handlerOf_setMode (by simp) m s.beginStep]
      exact ⟨rfl, fun _ _ => rfl⟩
    | _ => cases hevent

/-- Settles O34: the label of each event's handler, which starts with none. -/
theorem eventLabelsHaveExactlyTheirCauses : Obligations.EventLabelsHaveExactlyTheirCauses := by
  intro i s t hevent hexec
  obtain ⟨-, rfl⟩ := exec_next hexec
  cases i with
  | addrR | addrW | rx | stop =>
    simp only [handlerOf, onAddrR_err, onAddrW_err, onRx_err, onStop_err]
    split <;> simp_all
  | init | txc | rxc | err => simp [handlerOf]
  | _ => cases hevent

end Sys2Proof.Machine
end

section
/-! PROOFS. Which instruction writes which field (10_state.md section 4), field by field, and what follows for
DeviceState (section 1). -/

namespace Sys2Proof.Machine

section
variable (i : Instr) (s : State)

theorem handlerOf_mode_eq_or :
    (handlerOf i s).mode = s.mode ∨ i = .init ∨ i = .addrR ∨ i = .addrW ∨ i = .stop ∨ i = .err := by
  cases i with
  | init | addrR | addrW | stop | err => exact .inr (by simp)
  | rx b => exact .inl (onRx_mode b s)
  | noCommand | beginReceive | beginTransmit | rearmListen => exact .inl (State.emit_mode _ s)
  | _ => exact .inl rfl

theorem handlerOf_IN_eq_or :
    (handlerOf i s).IN = s.IN ∨ i = .init ∨ (∃ b, i = .rx b) ∨ i = .stop ∨ i = .err := by
  cases i with
  | init | rx | stop | err => exact .inr (by simp)
  | addrR => exact .inl (onAddrR_IN s)
  | addrW => exact .inl (onAddrW_IN s)
  | noCommand | beginReceive | beginTransmit | rearmListen => exact .inl (State.emit_IN _ s)
  | _ => exact .inl rfl

theorem handlerOf_OUT_eq_or :
    (handlerOf i s).OUT = s.OUT ∨ i = .init ∨ i = .addrR ∨ i = .txc ∨ i = .err := by
  cases i with
  | init | addrR | txc | err => exact .inr (by simp)
  | addrW => exact .inl (onAddrW_OUT s)
  | rx b => exact .inl (onRx_OUT b s)
  | stop => exact .inl (onStop_OUT s)
  | noCommand | beginReceive | beginTransmit | rearmListen => exact .inl (State.emit_OUT _ s)
  | _ => exact .inl rfl

theorem handlerOf_reqReg_eq_or :
    (handlerOf i s).reqReg = s.reqReg ∨ i = .init ∨ i = .addrR ∨ i = .stop ∨ i = .selectNone ∨
      (∃ r, i = .select r) ∨ (∃ hi rest, i = .writeSet hi rest) ∨ ∃ r hi rest, i = .writeUnknown r hi rest := by
  cases i with
  | init | addrR | stop | selectNone | select | writeSet | writeUnknown => exact .inr (by simp)
  | addrW => exact .inl (onAddrW_reqReg s)
  | rx b => exact .inl (onRx_reqReg b s)
  | noCommand | beginReceive | beginTransmit | rearmListen => exact .inl (State.emit_reqReg _ s)
  | _ => exact .inl rfl

theorem onStop_dev :
    s.onStop.dev = if 2 ≤ s.IN.count ∧ s.IN.read 0 = Config.regSet then payload s.IN.count s.IN else s.dev := by
  rw [onStop_eq]

/-- DeviceState is kept but by `INIT`, a stop that completes a write to 0x09, and the row of that write. -/
theorem handlerOf_dev_eq_or :
    (handlerOf i s).dev = s.dev ∨ i = .init ∨ (i = .stop ∧ 2 ≤ s.IN.count ∧ s.IN.read 0 = Config.regSet) ∨
      ∃ hi rest, i = .writeSet hi rest := by
  cases i with
  | init | writeSet => exact .inr (by simp)
  | addrR => exact .inl (onAddrR_dev s)
  | addrW => exact .inl (onAddrW_dev s)
  | rx b => exact .inl (onRx_dev b s)
  | stop =>
    by_cases hset : 2 ≤ s.IN.count ∧ s.IN.read 0 = Config.regSet
    · exact .inr (.inr (.inl ⟨rfl, hset⟩))
    · exact .inl ((onStop_dev s).trans (if_neg hset))
  | noCommand | beginReceive | beginTransmit | rearmListen => exact .inl (State.emit_dev _ s)
  | _ => exact .inl rfl

end

/-- Settles O36: `INIT` sets its value, and the other causes are those of `handlerOf_dev_eq_or`. -/
theorem deviceStateChangesOnlyBySetOrInit : Obligations.DeviceStateChangesOnlyBySetOrInit := by
  intro i s t hexec hne
  obtain ⟨-, rfl⟩ := exec_next hexec
  obtain rfl | hstop | hrow := (handlerOf_dev_eq_or i s.beginStep).resolve_left hne
  · exact .inl ⟨rfl, rfl⟩
  · exact .inr (.inl hstop)
  · exact .inr (.inr hrow)

/-- Settles O35: one lemma per field says which instructions write it. -/
theorem everyInstructionWritesOnlyItsFields : Obligations.EveryInstructionWritesOnlyItsFields := by
  intro i s t hexec
  have hinputs := exec_next_inputs hexec
  obtain ⟨hrun, rfl⟩ := exec_next hexec
  refine ⟨(handlerOf_mode_eq_or i s.beginStep).resolve_left, (handlerOf_IN_eq_or i s.beginStep).resolve_left,
    (handlerOf_OUT_eq_or i s.beginStep).resolve_left, (handlerOf_reqReg_eq_or i s.beginStep).resolve_left,
    fun hne => ?dev, hinputs, ?initialised⟩
  case dev =>
    obtain hinit | ⟨hstop, -⟩ | hrow := (handlerOf_dev_eq_or i s.beginStep).resolve_left hne
    · exact .inl hinit
    · exact .inr (.inl hstop)
    · exact .inr (.inr hrow)
  case initialised =>
    rcases hrun with rfl | hinit
    · rfl
    · exact handlerOf_initialised i hinit

end Sys2Proof.Machine
end

section
/-! PROOFS. The commands an instruction can end with (30_encoding.md R72, R73), and that every step keeps the invariant
of 10_state.md section 2. -/

namespace Sys2Proof.Machine

/-- The words of the legal commands are the eight of the table (R72). -/
theorem word_mem_of_legal {c : Command} (h : c.legal = true) :
    c.word ∈ [0x0000#16, 0x4100#16, 0x4101#16, 0x4102#16, 0x4103#16, 0x4104#16, 0xB200#16, 0xC000#16] := by
  cases c with
  | none | beginTransmit | rearmListen => decide
  | beginReceive off =>
    obtain ⟨n, hn, rfl⟩ : ∃ n < 5, off = BitVec.ofNat 8 n := ⟨off.toNat, of_decide_eq_true h, by simp⟩
    interval_cases n <;> decide

/-- A receive asked at a fill count below the capacity is legal. -/
theorem receiveAt_legal {n : Nat} (h : n < Config.cap) : (receiveAt n).legal = true :=
  decide_eq_true (lt_of_le_of_lt (BitVec.toNat_ofNat .. ▸ Nat.mod_le _ _) h)

/-- A well-formed instruction ends with a legal command where it started with one. -/
theorem handlerOf_cmd_legal {i : Instr} {s : State} (hi : i.wf = true) (hs : s.cmd.legal = true) :
    (handlerOf i s).cmd.legal = true := by
  cases i with
  | addrR => simp [handlerOf, Command.legal]
  | addrW =>
    simp only [handlerOf, onAddrW_cmd]
    split
    · exact receiveAt_legal ‹_›
    · exact hs
  | rx b =>
    rw [handlerOf, onRx_cmd]
    split_ifs with hrearm
    · obtain ⟨-, -, hroom⟩ := hrearm
      exact receiveAt_legal hroom
    · exact hs
  | stop => simp [handlerOf, Command.legal]
  | beginReceive off => exact hi
  | init | err | noCommand | beginTransmit | rearmListen => rfl
  | _ => exact hs

/-- Settles O37: a step starts with the command `NONE`, and a well-formed instruction ends with a legal one. -/
theorem onlyTheListedCommandWordsAreEmitted : Obligations.OnlyTheListedCommandWordsAreEmitted := by
  intro i s t hi hexec
  obtain ⟨-, rfl⟩ := exec_next hexec
  exact word_mem_of_legal (handlerOf_cmd_legal hi rfl)

/-- The last operation commanded is kept, or is the command the instruction ends with. -/
theorem handlerOf_lastOp (i : Instr) (s : State) :
    (handlerOf i s).lastOp = s.lastOp ∨ (handlerOf i s).lastOp = (handlerOf i s).cmd := by
  cases i with
  | addrR => exact .inr (by simp [handlerOf])
  | addrW =>
    simp only [handlerOf, onAddrW_eq]
    split <;> simp
  | rx b =>
    rcases Nat.lt_or_ge s.IN.count Config.cap with hc | hc
    · simp only [handlerOf, onRx_of_some (Buffer.append_eq_some hc)]
      split <;> simp
    · exact .inl (by simp only [handlerOf, onRx_of_ge b hc])
  | stop => exact .inr (by simp [handlerOf])
  | init | err | beginReceive | beginTransmit | rearmListen => exact .inr rfl
  | _ => exact .inl rfl

/-- A response is the two bytes of a value (R141). -/
theorem buildResponse_resp (id : Byte) (s : State) : ∃ v, (s.buildResponse id).resp = wordBytes v := by
  rw [buildResponse_eq]
  split
  · exact ⟨_, rfl⟩
  · exact ⟨_, rfl⟩

theorem onAddrR_resp (s : State) : s.onAddrR.resp = (s.buildResponse s.reqReg).resp := by rw [onAddrR_eq]

theorem onAddrR_OUT (s : State) : s.onAddrR.OUT = s.OUT.load (s.buildResponse s.reqReg).resp := by rw [onAddrR_eq]

/-- An instruction keeps the response output or builds one response. -/
theorem handlerOf_resp (i : Instr) (s : State) :
    (handlerOf i s).resp = s.resp ∨ ∃ v, (handlerOf i s).resp = wordBytes v := by
  cases i with
  | addrR => exact .inr (onAddrR_resp s ▸ buildResponse_resp s.reqReg s)
  | addrW => exact .inl (onAddrW_resp s)
  | rx b => exact .inl (onRx_resp b s)
  | stop => exact .inl (onStop_resp s)
  | readGet | readUnknown => exact .inr ⟨_, rfl⟩
  | noCommand | beginReceive | beginTransmit | rearmListen => exact .inl (State.emit_resp _ s)
  | _ => exact .inl rfl

/-- What an instruction loads into the outbound buffer is one response. -/
theorem handlerOf_OUT_count (i : Instr) (s : State) :
    (handlerOf i s).OUT.count = s.OUT.count ∨ (handlerOf i s).OUT.count = 0 ∨
      (handlerOf i s).OUT.count = Config.respLen := by
  obtain hkeep | rfl | rfl | rfl | rfl := handlerOf_OUT_eq_or i s
  · exact .inl (congrArg _ hkeep)
  · exact .inr (.inl rfl)
  · obtain ⟨v, hv⟩ := buildResponse_resp s.reqReg s
    exact .inr (.inr (by rw [handlerOf, onAddrR_OUT, hv]; rfl))
  · exact .inr (.inl rfl)
  · exact .inr (.inl rfl)

theorem handlerOf_IN_wf (i : Instr) {s : State} (h : s.IN.wf = true) : (handlerOf i s).IN.wf = true := by
  obtain hkeep | hempty | ⟨b, happ⟩ := handlerOf_IN i s
  · exact hkeep ▸ h
  · exact hempty ▸ Buffer.wf_empty
  · exact Buffer.wf_append h happ

theorem handlerOf_OUT_wf (i : Instr) {s : State} (h : s.OUT.wf = true) : (handlerOf i s).OUT.wf = true := by
  obtain hkeep | hempty | ⟨bs, hload⟩ := handlerOf_OUT i s
  · exact hkeep ▸ h
  · exact hempty ▸ Buffer.wf_empty
  · exact hload ▸ Buffer.wf_load _ _

/-- The handler of a well-formed instruction keeps the invariant. -/
theorem State.Inv.handlerOf {i : Instr} (hi : i.wf = true) {s : State} (h : s.Inv) : (handlerOf i s).Inv where
  inbound := handlerOf_IN_wf i h.inbound
  outbound := handlerOf_OUT_wf i h.outbound
  responseLoaded := (handlerOf_OUT_count i s).elim (fun hkeep => hkeep ▸ h.responseLoaded) id
  commandLegal := handlerOf_cmd_legal hi h.commandLegal
  lastOpLegal := by
    obtain hkeep | hcmd := handlerOf_lastOp i s
    · exact hkeep ▸ h.lastOpLegal
    · exact hcmd ▸ handlerOf_cmd_legal hi h.commandLegal
  responseLength := by
    obtain hkeep | ⟨v, hv⟩ := handlerOf_resp i s
    · exact hkeep ▸ h.responseLength
    · exact .inr (congrArg List.length hv)

/-- Taking an input and clearing the outputs keeps the invariant. -/
theorem State.Inv.take_beginStep {s : State} (h : s.Inv) (rest : List Input) : (s.take rest).beginStep.Inv where
  inbound := h.inbound
  outbound := h.outbound
  responseLoaded := h.responseLoaded
  commandLegal := rfl
  lastOpLegal := h.lastOpLegal
  responseLength := .inl rfl

/-- Settles O15: a step parks the core or runs the handler of an instruction that was decoded, so a well-formed one. -/
theorem everyStepKeepsTheInvariant : Obligations.EveryStepKeepsTheInvariant := by
  intro s t h hstep
  obtain ⟨-, rfl⟩ | ⟨x, rest, i, -, hdecode, hexec⟩ := step_next hstep
  · exact h
  · obtain ⟨hwf, -⟩ := whatDecodesIsTheEncodingOfItsInstruction x i hdecode
    obtain ⟨-, rfl⟩ := exec_next hexec
    exact (h.take_beginStep rest).handlerOf hwf

/-- Settles O14: reset holds two empty buffers, and the command it ends with is `REARM_LISTEN`. -/
theorem resetMeetsTheInvariant : Obligations.ResetMeetsTheInvariant where
  inbound := rfl
  outbound := rfl
  responseLoaded := .inl rfl
  commandLegal := rfl
  lastOpLegal := rfl
  responseLength := .inl rfl

end Sys2Proof.Machine
end

section
/-! PROOFS. Reset and the events one at a time (10_state.md section 5, 40_state_machine.md sections 2 to 7): the whole
next state of each. -/

namespace Sys2Proof.Machine

/-- Settles O13: the fields of `State.reset`. -/
theorem resetHoldsTheInitialValues : Obligations.ResetHoldsTheInitialValues :=
  ⟨rfl, rfl, rfl, rfl, rfl, fun _ => ⟨rfl, rfl⟩, by decide, rfl⟩

/-- Settles O20: `INIT` runs on any core and writes every field but the inputs. -/
theorem initResetsEverything : Obligations.InitResetsEverything := exec_init

/-- After a read address match OUT holds the response built, and nothing else. -/
theorem onAddrR_OUT_holds (s : State) : s.onAddrR.OUT.Holds (s.buildResponse s.reqReg).resp := by
  obtain ⟨v, hv⟩ := buildResponse_resp s.reqReg s
  rw [onAddrR_OUT, hv]
  exact Buffer.holds_load _ (by simp)

/-- Settles O21: the handler of ADDR_R as one update, with the response `BuildResponse` gives written out. -/
theorem readAddressMatchLoadsTheResponse : Obligations.ReadAddressMatchLoadsTheResponse := by
  intro s hinit
  have hresp : (s.beginStep.buildResponse s.reqReg).resp =
      if s.reqReg = 0x08#8 then wordBytes s.dev else [0xFF#8, 0xFF#8] := by
    simp [buildResponse_eq]
  have herr : (s.beginStep.buildResponse s.reqReg).err = if s.reqReg = 0x08#8 then .none else .unknownRegister := by
    simp [buildResponse_eq]
  refine ⟨s.beginStep.onAddrR.OUT, hresp ▸ onAddrR_OUT_holds s.beginStep, ?_⟩
  rw [exec_of_initialised hinit, handlerOf, onAddrR_OUT, onAddrR_eq]
  simp only [State.beginStep_reqReg, hresp, herr]
  rfl

/-- Settles O23: the two cases of the handler of ADDR_W. -/
theorem writeAddressMatchAsksForOneByte : Obligations.WriteAddressMatchAsksForOneByte := by
  intro s hinit
  rw [exec_of_initialised hinit]
  exact ⟨fun hroom => congrArg _ (onAddrW_of_lt (s := s.beginStep) hroom),
    fun hfull => congrArg _ (onAddrW_of_ge (s := s.beginStep) hfull)⟩

/-- Settles O24: the byte is appended, and the re-arm looks at the count after it. -/
theorem receivedByteLandsAtTheFillCount : Obligations.ReceivedByteLandsAtTheFillCount := by
  intro s b hinit hwf hroom
  obtain ⟨B, happ⟩ : ∃ B, s.IN.append b = some B := ⟨_, Buffer.append_eq_some hroom⟩
  obtain ⟨-, hcount, hlast, hkeep⟩ := Buffer.append_spec happ
  refine ⟨B, hcount, (hlast hwf).1, hkeep, ?_⟩
  rw [exec_of_initialised hinit, handlerOf, onRx_of_some (s := s.beginStep) happ, ← hcount]
  rfl

/-- Settles O26: the handler of TXC resets OUT. -/
theorem transmitCompleteEmptiesOut : Obligations.TransmitCompleteEmptiesOut :=
  fun _ hinit => exec_of_initialised hinit .txc

/-- Settles O27: the handler of RXC is the identity. -/
theorem receiveCompleteHasNoEffect : Obligations.ReceiveCompleteHasNoEffect :=
  fun _ hinit => exec_of_initialised hinit .rxc

/-- Settles O30: the handler of ERR takes the bus fault. -/
theorem busErrorAbandonsTheTransaction : Obligations.BusErrorAbandonsTheTransaction :=
  fun _ hinit => exec_of_initialised hinit .err

/-- Settles O28: with at most one byte the handler of STOP changes neither DeviceState nor the label. -/
theorem stopAfterAtMostOneByteSelects : Obligations.StopAfterAtMostOneByteSelects := by
  intro s hinit hone
  have hshort : ¬ 2 ≤ s.IN.count := by omega
  rw [exec_of_initialised hinit, handlerOf, onStop_eq]
  simp only [State.beginStep_IN, hshort, false_and, if_false]
  rfl

/-- The payload is byte 1 and byte 2, the low byte 0x00 where the write does not reach it (R145). -/
theorem payload_eq (n : Nat) (B : Buffer) : payload n B = B.read 1 ++ (if 3 ≤ n then B.read 2 else 0x00#8) := by
  unfold payload
  split <;> rfl

/-- Settles O29: with two bytes or more the handler of STOP decides on the register byte alone. -/
theorem stopAfterAPayloadAppliesTheWrite : Obligations.StopAfterAPayloadAppliesTheWrite := by
  intro s hinit htwo
  have hsome : s.IN.count ≠ 0 := by omega
  rw [exec_of_initialised hinit, handlerOf, onStop_eq]
  simp only [State.beginStep_IN, hsome, htwo, true_and, if_false, payload_eq, ne_eq, ite_not]
  rfl

/-! ### A write, received byte by byte -/

/-- The fields of the word that asks for a byte at a fill count (R71, R72). -/
theorem cmdFields_receiveAt (n : Nat) :
    cmdOp (receiveAt n).word = 0b01#2 ∧ cmdCount (receiveAt n).word = 1#4 ∧ cmdIsFinal (receiveAt n).word = 0#1 ∧
      cmdOffset (receiveAt n).word = BitVec.ofNat 8 n := by
  obtain ⟨hop, hfinal, -, hcount, hoff⟩ := cmdFields_commandWord 0b01#2 0#1 0#1 1#4 (BitVec.ofNat 8 n)
  exact ⟨hop, hcount, hfinal, hoff⟩

/-- The address match and the bytes of a write keep the selection and DeviceState, and ask for one byte at the fill
count or for none. -/
theorem handlerOf_of_receives {i : Instr} (hi : i = .addrW ∨ ∃ b, i = .rx b) (s : State) :
    (handlerOf i s).reqReg = s.reqReg ∧ (handlerOf i s).dev = s.dev ∧
      ((handlerOf i s).cmd = s.cmd ∨ (handlerOf i s).cmd = receiveAt (handlerOf i s).IN.count) := by
  rcases hi with rfl | ⟨b, rfl⟩
  · refine ⟨onAddrW_reqReg s, onAddrW_dev s, ?_⟩
    simp only [handlerOf, onAddrW_cmd, onAddrW_IN]
    split <;> simp
  · refine ⟨onRx_reqReg b s, onRx_dev b s, ?_⟩
    simp only [handlerOf, onRx_cmd]
    split <;> simp

/-- Settles O38: the two events that receive a write, and the selection and DeviceState after its stop. -/
theorem aWriteIsReceivedByteByByteAndInterpretedAtItsStop :
    Obligations.AWriteIsReceivedByteByByteAndInterpretedAtItsStop := by
  refine ⟨fun i s t hi hexec => ?receives, fun s hinit => ⟨_, exec_of_initialised hinit .stop, ?stops⟩⟩
  case receives =>
    obtain ⟨-, rfl⟩ := exec_next hexec
    obtain ⟨hreg, hdev, hcmd | hcmd⟩ := handlerOf_of_receives hi s.beginStep
    · exact ⟨hreg, hdev, .inl (by rw [hcmd, State.beginStep_cmd]; decide)⟩
    · exact ⟨hreg, hdev, .inr (hcmd ▸ cmdFields_receiveAt _)⟩
  case stops => exact ⟨onStop_reqReg _, (onStop_dev _).trans (by rw [payload_eq]; rfl)⟩

/-- Settles O41: the stop after one byte stores it, and a read of any register but 0x08 returns the unknown response. -/
theorem oneByteWriteOnlySelects : Obligations.OneByteWriteOnlySelects := by
  intro s hinit hone
  have hreg : s.beginStep.onStop.reqReg = s.IN.read 0 := by simp [onStop_reqReg, hone]
  refine ⟨_, exec_of_initialised hinit .stop, hreg, ?_, ?_, fun hne => ?_⟩
  · simp [handlerOf, onStop_dev, hone]
  · simp [handlerOf, onStop_err, hone]
  · obtain ⟨u, hread, hresp, -⟩ :=
      exec_addrR_of_ne_get (handlerOf_initialised .stop (s := s.beginStep) hinit) (hreg ▸ hne)
    exact ⟨u, hread, hresp.trans wordBytes_unknownResp⟩

end Sys2Proof.Machine
end

section
/-! PROOFS. The Register Dispatcher's rows and the commands (41_register_dispatcher.md, 30_encoding.md section 3), each
executed by itself, and that the events which call the dispatcher run the row of their register or bytes. -/

namespace Sys2Proof.Machine

/-- Settles O40: the two read rows, and the choice between them. -/
theorem readRowsReturnTwoBytes : Obligations.ReadRowsReturnTwoBytes :=
  ⟨fun _ hinit => exec_of_initialised hinit .readGet, fun _ r hinit _ => exec_of_initialised hinit (.readUnknown r),
    fun _ => rfl⟩

theorem payloadOf_head? (hi : Byte) (rest : List Byte) : payloadOf hi rest.head? = hi ++ rest.headD 0x00#8 := by
  cases rest <;> rfl

/-- Settles O42: the four write rows. -/
theorem writeRowsStoreWhatTheySay : Obligations.WriteRowsStoreWhatTheySay := by
  refine ⟨fun s r hinit => exec_of_initialised hinit (.select r), fun s hi rest hinit => ?_,
    fun s r hi rest hinit _ => exec_of_initialised hinit (.writeUnknown r hi rest),
    fun s hinit => exec_of_initialised hinit .selectNone⟩
  rw [exec_of_initialised hinit, handlerOf, payloadOf_head?]
  rfl

/-- Settles O47: the four command rows. -/
theorem emittingACommandSetsOnlyTheOutput : Obligations.EmittingACommandSetsOnlyTheOutput := fun _ hinit =>
  ⟨exec_of_initialised hinit .noCommand, fun off _ => exec_of_initialised hinit (.beginReceive off),
    exec_of_initialised hinit .beginTransmit, exec_of_initialised hinit .rearmListen⟩

/-- Settles O46: `ApplyWrite` as one update reads the parameter only where it stores the register of a write of two
or more bytes. -/
theorem theCouplingDecidesOnlyTheSelection : Obligations.TheCouplingDecidesOnlyTheSelection := by
  refine fun n s => ⟨?_, fun htwo => ?_, rfl⟩
  · rw [applyWriteWith_eq, applyWriteWith_eq]
    by_cases htwo : 2 ≤ n
    · simp [htwo, show n ≠ 0 by omega, show n ≠ 1 by omega]
    · obtain rfl | rfl : n = 0 ∨ n = 1 := by omega
      · rfl
      · rfl
  · simp [applyWriteWith_eq, show n ≠ 0 by omega]

/-- The row a read decodes to runs `BuildResponse` of its register (R141). -/
theorem handlerOf_decodeRead (id : Byte) (s : State) : handlerOf (decodeRead id) s = s.buildResponse id := by
  unfold decodeRead State.buildResponse
  split <;> rfl

/-- Settles O44: the row's handler is `BuildResponse`, and the address match loads what that gives. -/
theorem readAddressMatchRunsTheDispatcherRow : Obligations.ReadAddressMatchRunsTheDispatcherRow := by
  intro s hinit
  have hrow : exec (decodeRead s.reqReg) s = .next (s.beginStep.buildResponse s.reqReg) :=
    (exec_of_initialised hinit _).trans (congrArg _ (handlerOf_decodeRead _ _))
  refine ⟨decodeRead s.reqReg, _, _, rfl, hrow, exec_of_initialised hinit .addrR, onAddrR_OUT_holds _, ?_, ?_, ?_⟩
  · rw [handlerOf, onAddrR_eq]
    rfl
  · rw [handlerOf, onAddrR_dev, buildResponse_eq]
  · rw [handlerOf, onAddrR_IN, buildResponse_eq]

/-- `ApplyWrite` of two or more bytes is one of the two rows with a payload (R148, R149). -/
theorem applyWrite_of_two_le {n : Nat} (h : 2 ≤ n) (s : State) :
    s.applyWrite n =
      if s.IN.read 0 = Config.regSet then s.writeSet Config.setSelects (payload n s.IN)
      else s.writeUnknown Config.setSelects (s.IN.read 0) := by
  rw [State.applyWrite, State.applyWriteWith, if_neg (by omega), if_neg (by omega)]

/-- The valid bytes of a buffer that holds two or more: the register, the high byte, and what follows, which starts
with byte 2 where there is one. -/
theorem Buffer.readAll_eq_cons_cons {B : Buffer} (h : 2 ≤ B.count) :
    ∃ rest, B.readAll = B.read 0 :: B.read 1 :: rest ∧ rest.length + 2 = B.count ∧
      rest.head? = if 3 ≤ B.count then some (B.read 2) else none := by
  refine ⟨_, Buffer.readAll_of_two_le h, by simp [Nat.sub_add_cancel h], ?_⟩
  split <;> simp [List.head?_range] <;> omega

/-- The row the bytes of a buffer decode to runs `ApplyWrite` of them (R144). -/
theorem decodeWrite_readAll {B : Buffer} (hcap : B.count ≤ Config.cap) :
    ∃ i, decodeWrite B.readAll = .ok i ∧ ∀ s : State, s.IN = B → handlerOf i s = s.applyWrite B.count := by
  rcases Nat.lt_or_ge B.count 2 with hlt | htwo
  · obtain hnone | hone : B.count = 0 ∨ B.count = 1 := by omega
    · refine ⟨.selectNone, by rw [Buffer.readAll_of_count_zero hnone]; rfl, fun s _ => ?_⟩
      rw [hnone]
      rfl
    · refine ⟨.select (B.read 0), by rw [Buffer.readAll, hone]; rfl, fun s hIN => ?_⟩
      rw [hone, ← hIN]
      rfl
  obtain ⟨rest, hbytes, hlength, hhead⟩ := Buffer.readAll_eq_cons_cons htwo
  have hfits : fitsBuffer (rest.length + 2) = true := decide_eq_true (hlength.trans_le hcap)
  have hpay : payloadOf (B.read 1) rest.head? = payload B.count B := by rw [hhead, payload]
  rw [hbytes]
  simp only [decodeWrite, if_pos hfits]
  by_cases hset : B.read 0 = Config.regSet
  · refine ⟨_, if_pos hset, fun s hIN => ?_⟩
    rw [applyWrite_of_two_le htwo, hIN, if_pos hset, handlerOf, hpay]
  · refine ⟨_, if_neg hset, fun s hIN => ?_⟩
    rw [applyWrite_of_two_le htwo, hIN, if_neg hset, handlerOf]

/-- A stop applies the write and ends the transaction (R107). -/
theorem onStop_eq_applyWrite (s : State) :
    s.onStop =
      { s.applyWrite s.IN.count with
        mode := .listening
        IN := Buffer.empty
        cmd := .rearmListen
        lastOp := .rearmListen } := by
  rw [onStop_eq, State.applyWrite, applyWriteWith_eq]
  simp

/-- Settles O43: the handler of the row the bytes decode to is `ApplyWrite` of them. -/
theorem stopRunsTheDispatcherRowOfItsBytes : Obligations.StopRunsTheDispatcherRowOfItsBytes := by
  intro s hinit hcap
  obtain ⟨i, hdecode, hrow⟩ := decodeWrite_readAll hcap
  refine ⟨i, _, hdecode, exec_of_initialised hinit i, ?_⟩
  rw [hrow s.beginStep rfl]
  exact (exec_of_initialised hinit .stop).trans (congrArg _ (onStop_eq_applyWrite s.beginStep))

end Sys2Proof.Machine
end

section
/-! PROOFS. The hazards of transactions that run into each other (70_reset_and_hazards.md section 2), by what the core
has received when each event comes. -/

namespace Sys2Proof.Machine

section
variable {s : State} {b r : Byte} {bs : List Byte} {v : Word}

theorem State.Received.count (h : s.Received bs v) : s.IN.count = bs.length := Buffer.count_of_readAll h.bytes

theorem State.Received.read {i : Nat} (h : s.Received bs v) (hb : bs[i]? = some b) : s.IN.read i = b :=
  Buffer.read_of_readAll h.bytes hb

/-- An instruction that keeps IN and DeviceState keeps what has been received. -/
theorem State.Received.of_kept {i : Instr} (h : s.Received bs v) (hIN : (handlerOf i s.beginStep).IN = s.IN)
    (hdev : (handlerOf i s.beginStep).dev = s.dev) : (handlerOf i s.beginStep).Received bs v where
  initialised := handlerOf_initialised i h.initialised
  canonical := hIN ▸ h.canonical
  bytes := hIN ▸ h.bytes
  dev := hdev.trans h.dev

/-- A read's address match and the end of its transmit keep what has been received (R102, R105). -/
theorem State.Received.addrR_txc (h : s.Received bs v) :
    (handlerOf .txc (handlerOf .addrR s.beginStep).beginStep).Received bs v :=
  (h.of_kept (i := .addrR) (onAddrR_IN _) (onAddrR_dev _)).of_kept (i := .txc) rfl rfl

/-- The stop selects the first byte received (R147, R148, R149). -/
theorem State.Received.stop_reqReg (h : s.Received (r :: bs) v) : (handlerOf .stop s.beginStep).reqReg = r := by
  have hsome : s.IN.count ≠ 0 := by simp [h.count]
  rw [handlerOf, onStop_reqReg, State.beginStep_IN, if_neg hsome, h.read (i := 0) rfl]

end

/-- Settles O50: neither the address match nor the byte of the select changes the selection the read answers from, and
the byte still waits in IN when the read's stop comes. -/
theorem withoutAStopTheSelectWaitsForTheNextRead : Obligations.WithoutAStopTheSelectWaitsForTheNextRead := by
  intro s r hinit hwf hempty
  have hstart : s.Received [] s.dev := ⟨hinit, hwf, Buffer.readAll_of_count_zero hempty, rfl⟩
  have hselect := hstart.addrW.rx r (by decide)
  obtain ⟨hend, hreg⟩ := hselect.addrR_txc.stop_select
  refine ⟨_, _, runAll_of_initialised _ hinit, ?_, runAll_of_initialised _ (runHandlers_initialised _ hinit), hreg,
    hend.dev⟩
  have hresp := onAddrR_response (runHandlers [.addrW, .rx r] s).beginStep
  simpa [runHandlers, handlerOf] using hresp

/-- Settles O51: in `Listening` the late byte arms nothing; it is the first byte of IN for the transaction that comes
next, whose stop selects it. -/
theorem aLateByteJoinsTheNextTransaction : Obligations.ALateByteJoinsTheNextTransaction := by
  intro s b c hinit hwf hmode hempty
  have hstart : s.Received [] s.dev := ⟨hinit, hwf, Buffer.readAll_of_count_zero hempty, rfl⟩
  have hlate := hstart.rx b (by decide)
  have hmatch := hlate.addrW
  have hboth := hmatch.rx c (by simp)
  have hidle : ¬ s.mode = .receiving := by simp [hmode]
  refine ⟨_, exec_of_initialised hinit (.rx b), ?_, (onRx_mode b _).trans hmode, hlate.count, hlate.read rfl,
    ?read, ?write⟩
  · rw [handlerOf, onRx_cmd, State.beginStep_mode, if_neg fun hrearm => hidle hrearm.1, State.beginStep_cmd]
  case read =>
    obtain ⟨hend, hreg⟩ := hlate.addrR_txc.stop_select
    exact ⟨_, runAll_of_initialised _ hlate.initialised, hreg, hend.count⟩
  case write =>
    refine ⟨_, _, _, exec_of_initialised hlate.initialised .addrW, ?_,
      exec_of_initialised hmatch.initialised (.rx c), hboth.count, hboth.read rfl, hboth.read rfl,
      exec_of_initialised hboth.initialised .stop, hboth.stop_reqReg, hboth.stop.count⟩
    have hone : (handlerOf (.rx b) s.beginStep).IN.count = 1 := hlate.count
    rw [handlerOf, onAddrW_cmd, State.beginStep_IN, hone, if_pos (by decide)]
    decide

/-- Settles O52: the stop of the SET selects 0x09, which is not the register a read answers from DeviceState. -/
theorem aBareReadAfterASetReturnsTheSentinel : Obligations.ABareReadAfterASetReturnsTheSentinel := by
  intro s v hinit hwf hempty
  have hstart : s.Received [] s.dev := ⟨hinit, hwf, Buffer.readAll_of_count_zero hempty, rfl⟩
  have hend := hstart.set v
  have hbytes := ((hstart.addrW.rx Config.regSet (by decide)).rx (msb v) (by simp)).rx (lsb v) (by simp)
  have hreg : (runHandlers (Pseudo.set Config.regSet v).expand s).reqReg = Config.regSet := hbytes.stop_reqReg
  obtain ⟨u, hread, hresp, -⟩ := exec_addrR_of_ne_get hend.initialised (by rw [hreg]; decide)
  exact ⟨_, u, runAll_of_initialised _ hinit, hend.dev, hreg, hread, hresp.trans wordBytes_unknownResp⟩

end Sys2Proof.Machine
end
